-- ==== Sys2Proof/Word.lean ====
section
/-! DEFINITION. The widths of the block (`00_scope.md` R11, R12): a byte, a sixteen-bit register, a command word. -/

namespace Sys2Proof

/-- Eight bits: one byte on the wire, a register number, an address byte (R11). -/
abbrev Byte := BitVec 8

/-- Sixteen bits: STATUS, UT and the eleven coefficients (`10_state.md` R20). -/
abbrev Half := BitVec 16

/-- Thirty-two bits: the command word, the response data, TEMP and PRESS (R20, R100, R103). -/
abbrev Word := BitVec 32

end Sys2Proof
end

