-- ==== Sys2Proof/Syntax.lean ====
section
/-! DEFINITION. The host commands (`30_encoding.md` R101), one constructor per row of the opcode table. -/

namespace Sys2Proof

/-- A host command with its operands. GET takes any register number byte: a reserved number is a legal encoding that the
command answers with BADREG (R106). -/
inductive Instr where
  /-- INIT, format N (`42_calibration_loader.md` R160). -/
  | init
  /-- MEAST, format N (`43_measurement.md` R181). -/
  | meast
  /-- MEASP, format N (`43_measurement.md` R186). -/
  | measp
  /-- GET `r`, format A (`45_accessors.md` R240). -/
  | get (r : Byte)
  /-- RDB `a`, format A (`41_register_transactions.md` R142). -/
  | rdb (a : Byte)
  /-- RDW `a`, format A (R143). -/
  | rdw (a : Byte)
  /-- RDT `a`, format A (R144). -/
  | rdt (a : Byte)
  /-- WRR `a`, `d`, format AD (R146). -/
  | wrr (a d : Byte)
deriving DecidableEq, Repr

end Sys2Proof
end

