-- ==== Sys2Proof/WellFormed.lean ====
section
/-! DEFINITION. Which commands name only things the spec gives the block. Operand widths are in the types; the one check
left is that GET names an assigned register number (`10_state.md` R20). An ill-formed GET still encodes, decodes and runs:
it is answered BADREG (`30_encoding.md` R106; log 19). -/

namespace Sys2Proof

/-- The seventeen assigned register numbers of R20: 0x00 to 0x05 and 0x10 to 0x1A. -/
def assignedNumber (r : Byte) : Bool :=
  r.toNat ≤ 0x05 || (0x10 ≤ r.toNat && r.toNat ≤ 0x1A)

/-- The check: a GET names an assigned register; the other commands have nothing to check. -/
def Instr.wellFormed : Instr → Bool
  | .init => true
  | .meast => true
  | .measp => true
  | .get r => assignedNumber r
  | .rdb _ => true
  | .rdw _ => true
  | .rdt _ => true
  | .wrr _ _ => true

end Sys2Proof
end

