-- ==== Sys2Proof/Decode.lean ====
section
/-! DEFINITION. Decoding a command word (`30_encoding.md` R100 to R107), the encoder, and the listing form with the
pseudo-instructions (R110, R111). -/

namespace Sys2Proof

/-- The fields of a command word (R100). -/
def opField (w : Word) : BitVec 4 := w.extractLsb' 28 4
/-- The must-be-zero field `z` (R100). -/
def zField (w : Word) : BitVec 12 := w.extractLsb' 16 12
/-- The first operand `a` (R100). -/
def aField (w : Word) : Byte := w.extractLsb' 8 8
/-- The second operand `d` (R100). -/
def dField (w : Word) : Byte := w.extractLsb' 0 8

/-- Why a word is illegal: the three clauses of R105. The host sees one answer, ILLEGAL, for all of them. -/
inductive Illegal where
  /-- `op` is 0x0, 0x5, 0x6, 0x7 or 0xC to 0xF. -/
  | reservedOp
  /-- `z` is not zero. -/
  | zNotZero
  /-- An operand the format does not use is not zero. -/
  | operandNotZero
deriving DecidableEq, Repr

/-- Format N: `a = 0` and `d = 0` required (R100). -/
def formatN (w : Word) (i : Instr) : Except Illegal Instr :=
  if aField w = 0 ∧ dField w = 0 then .ok i else .error .operandNotZero

/-- Format A: operand `a`, `d = 0` required (R100). -/
def formatA (w : Word) (i : Byte → Instr) : Except Illegal Instr :=
  if dField w = 0 then .ok (i (aField w)) else .error .operandNotZero

/-- The opcode map of R101 on a word whose `z` is zero. -/
def decodeOp (w : Word) : Except Illegal Instr :=
  match (opField w).toNat with
  | 0x1 => formatN w .init
  | 0x2 => formatN w .meast
  | 0x3 => formatN w .measp
  | 0x4 => formatA w .get
  | 0x8 => formatA w .rdb
  | 0x9 => formatA w .rdw
  | 0xA => formatA w .rdt
  | 0xB => .ok (.wrr (aField w) (dField w))
  | _ => .error .reservedOp

/-- Decoding, total on all `2^32` words (R105: "every one of the `2^32` words is either one of the eight commands or
illegal"). -/
def decode (w : Word) : Except Illegal Instr :=
  if zField w = 0 then decodeOp w else .error .zNotZero

/-- The word of an opcode and its operands (R100). -/
def layWord (op : BitVec 4) (a d : Byte) : Word := op ++ (0 : BitVec 12) ++ a ++ d

/-- The encoder: the word patterns of R101. -/
def encode : Instr → Word
  | .init => layWord 0x1 0 0
  | .meast => layWord 0x2 0 0
  | .measp => layWord 0x3 0 0
  | .get r => layWord 0x4 r 0
  | .rdb a => layWord 0x8 a 0
  | .rdw a => layWord 0x9 a 0
  | .rdt a => layWord 0xA a 0
  | .wrr a d => layWord 0xB a d

/-- A row of the decoder's match and mask table (R102). -/
structure OpRow where
  matchWord : Word
  mask : Word
deriving DecidableEq, Repr

/-- The match and mask of each command (R102). -/
def opRow : Instr → OpRow
  | .init => ⟨0x10000000, 0xFFFFFFFF⟩
  | .meast => ⟨0x20000000, 0xFFFFFFFF⟩
  | .measp => ⟨0x30000000, 0xFFFFFFFF⟩
  | .get _ => ⟨0x40000000, 0xFFFF00FF⟩
  | .rdb _ => ⟨0x80000000, 0xFFFF00FF⟩
  | .rdw _ => ⟨0x90000000, 0xFFFF00FF⟩
  | .rdt _ => ⟨0xA0000000, 0xFFFF00FF⟩
  | .wrr _ _ => ⟨0xB0000000, 0xFFFF0000⟩

/-- The eight rows of R102. -/
def opTable : List OpRow :=
  [opRow .init, opRow .meast, opRow .measp, opRow (.get 0), opRow (.rdb 0), opRow (.rdw 0), opRow (.rdt 0), opRow (.wrr 0 0)]

/-- The word `w` fits the row (R102 `word & mask == match`). -/
def OpRow.fits (row : OpRow) (w : Word) : Bool := w &&& row.mask == row.matchWord

/-- The command word the opcode table's numbering of bits gives: one parallel 32-bit word, which has no byte order (R65,
R100), so bit `n` of the table is bit `n` of the word. -/
def tableWord (nbits w : Nat) : Word := BitVec.ofNat 32 (w % 2 ^ nbits)

/-- What the decoder reads from a row of the opcode table. -/
def decodeTableWord (nbits w : Nat) : Option Instr :=
  match decode (tableWord nbits w) with
  | .ok i => some i
  | .error _ => none

/-- The pseudo-instructions (R111, R245): spellings of one GET each. -/
inductive Pseudo where
  | getTemp
  | getPress
  | getId
  | getVer
  | getStatus
deriving DecidableEq, Repr

/-- What a pseudo-instruction expands to (R111). -/
def Pseudo.expand : Pseudo → Instr
  | .getTemp => .get 0x01
  | .getPress => .get 0x02
  | .getId => .get 0x03
  | .getVer => .get 0x04
  | .getStatus => .get 0x00

/-- The mnemonic of a command in capitals (R101, R110). -/
def Instr.mnemonic : Instr → String
  | .init => "INIT"
  | .meast => "MEAST"
  | .measp => "MEASP"
  | .get _ => "GET"
  | .rdb _ => "RDB"
  | .rdw _ => "RDW"
  | .rdt _ => "RDT"
  | .wrr _ _ => "WRR"

/-- The operands of a command, in the order a listing writes them (R110). -/
def Instr.operands : Instr → List Byte
  | .init => []
  | .meast => []
  | .measp => []
  | .get r => [r]
  | .rdb a => [a]
  | .rdw a => [a]
  | .rdt a => [a]
  | .wrr a d => [a, d]

/-- One listing line (R110): the mnemonic, then the operands as decimal numbers separated by a comma. -/
def Instr.listing (i : Instr) : String :=
  match i.operands with
  | [] => i.mnemonic
  | os => i.mnemonic ++ " " ++ ", ".intercalate (os.map fun b => toString b.toNat)

end Sys2Proof
end

