-- ==== Sys2Proof/Config.lean ====
section
/-! DEFINITION. What is fixed for this hardware (`00_scope.md` R7), its open parameters (R8, R9) and the free value behind the
environment's answers (`40_bus_transport.md` R121). -/

namespace Sys2Proof

/-- One answer of the environment to one transaction (R121): is the bus available at OPEN, and the bytes it delivers before
the bus goes away. The count `k` of R121 is how many of them fit the frame, so `0 ≤ k ≤ N` and `inp` has exactly `k` bytes
by construction, and every pair `(k, inp)` the rule allows is some draw. DEDUCED, safe: log 5. -/
structure Draw where
  avail : Bool
  bytes : List Byte
deriving DecidableEq, Repr

/-- The open parameters of the hardware: the seventeen bytes of R8, `OSS_IN_CMD` and `CLK_HZ` of R9. They stand in the
state, where no step changes them, so that a statement about every state is a statement about every value of them (log 6). -/
structure Params where
  aAc1 : Byte
  aAc2 : Byte
  aAc3 : Byte
  aAc4 : Byte
  aAc5 : Byte
  aAc6 : Byte
  aB1 : Byte
  aB2 : Byte
  aMb : Byte
  aMc : Byte
  aMd : Byte
  aId : Byte
  aVer : Byte
  aCtrlMeasW : Byte
  aDataR : Byte
  tempCmd : Byte
  pressCmd : Byte
  ossInCmd : Bool
  clkHz : Nat
deriving DecidableEq, Repr

namespace Config

/-- The defaults of R8 (PRESUMED: the spec marks them general knowledge G1 to G3, log 6), `OSS_IN_CMD = 1` of R9 (log 7),
and a `CLK_HZ` the spec leaves open (DESIGN CHOICE, log 8). -/
def defaultParams : Params where
  aAc1 := 0xAA
  aAc2 := 0xAC
  aAc3 := 0xAE
  aAc4 := 0xB0
  aAc5 := 0xB2
  aAc6 := 0xB4
  aB1 := 0xB6
  aB2 := 0xB8
  aMb := 0xBA
  aMc := 0xBC
  aMd := 0xBE
  aId := 0xD0
  aVer := 0xD1
  aCtrlMeasW := 0x74
  aDataR := 0xF6
  tempCmd := 0x2E
  pressCmd := 0x34
  ossInCmd := true
  clkHz := 1000000

/-- `MODE`, the oversampling mode of every pressure conversion (R7). -/
def mode : Nat := 3

/-- `WAIT_TABLE` (R7, `60_exceptions.md` R261): internal samples and wait in microseconds of an oversampling mode. -/
def waitTable : Nat → Option (Nat × Nat)
  | 0 => some (1, 4500)
  | 1 => some (2, 7500)
  | 2 => some (4, 13500)
  | 3 => some (8, 25500)
  | _ => none

/-- `WAIT_T_US`, the temperature conversion wait (R7). -/
def waitTUs : Nat := 4500

/-- `WAIT_P_US`, the pressure conversion wait, `WAIT_TABLE[MODE]` (R7). -/
def waitPUs : Nat := 25500

/-- `NSAMPLES`, pressure conversions per cycle (R7). -/
def nSamples : Nat := 3

/-- `UT_DEFAULT`, UT before any successful read (R7, R50). -/
def utDefault : Half := 26400

/-- `CHIP_ID_EXPECTED` (R7). -/
def chipIdExpected : Byte := 0x55

/-- `SPI_MODE`, clock polarity and phase (R7). -/
def spiMode : Nat := 3

/-- `SCLK_HZ`, the nominal serial clock rate (R7, `40_bus_transport.md` R129); no rule depends on it. -/
def sclkHz : Nat := 34000

/-- The free value behind the environment's answers: the `n`-th draw when the state lists none. It has no body: nothing
can be proved of what the sensor answers beyond the list (R121 "put no other constraint on the draw"; log 4). -/
opaque freeDraw : Nat → Bool × List Byte

end Config
end Sys2Proof
end

