-- ==== Sys2Proof/Machine/State.lean ====
section
/-! DEFINITION. The state of the machine as plain data: the register file (`10_state.md` R20), the sequencer (R40), the hidden
state of a command (R45), the SPI master with its pins (R45, R126), the response port (`30_encoding.md` R103), the inputs the
outside world supplies (R5, R121), the event trace (`00_scope.md` R6), and the reset state (R50). -/

namespace Sys2Proof.Machine

/-- Why a step could stop with a fault. It has no constructor: the block has no trap and nothing in it is stuck
(`60_exceptions.md` R256, R257; `93_implementation_defined.md` end of part 1). Safe: log 17. -/
inductive Fault where
deriving DecidableEq, Repr

/-- Why a step could be refused. -/
inductive Refusal where
  /-- Raised by `exec` alone, for an instruction that has no meaning yet; no arm raises it in this model. Safe. -/
  | notModelled (mnemonic : String)
deriving DecidableEq, Repr

/-- The seventeen registers of the host-visible register file, by name (R20). -/
inductive Reg where
  | status
  | temp
  | press
  | chipid
  | chipver
  | ut
  | ac1
  | ac2
  | ac3
  | ac4
  | ac5
  | ac6
  | b1
  | b2
  | mb
  | mc
  | md
deriving DecidableEq, Repr

/-- The one-bit fields of STATUS (R30). -/
inductive StatusField where
  | initd
  | idwarn
  | calerr
  | tvalid
  | pvalid
  | utstale
  | mfail
  | arith
  | busunav
  | xfererr
deriving DecidableEq, Repr

/-- The register file `x` (R20), each register the bit pattern of its width; signed registers are two's complement (R12). -/
structure RegFile where
  status : Half
  temp : Word
  press : Word
  chipid : Byte
  chipver : Byte
  ut : Half
  ac1 : Half
  ac2 : Half
  ac3 : Half
  ac4 : Half
  ac5 : Half
  ac6 : Half
  b1 : Half
  b2 : Half
  mb : Half
  mc : Half
  md : Half
deriving DecidableEq, Repr

/-- The sequencer state (R40). MEAST and MEASP share T0 to T3. -/
inductive Seq where
  | idle
  /-- The cycle of the response, the last busy one of every accepted word, refusals included (`30_encoding.md` R103, R104; log 23). -/
  | respond
  | x0
  | x1
  | g0
  | i (n : Fin 14)
  | t (n : Fin 4)
  | p (n j : Fin 3)
  | p9
deriving DecidableEq, Repr

/-- Where the transport stands inside a transaction (`40_bus_transport.md` R120 to R124, R127, R130). -/
inductive Phase where
  /-- No session is open; the next event of a transaction step is OPEN. -/
  | closed
  /-- A session is open, between two bytes: the bus is sampled (R130), then a byte starts or XFER ends. -/
  | gap
  /-- The next event is the falling edge of `sclk` (R127). -/
  | fall
  /-- The next event is the rising edge of `sclk` (R127). -/
  | rise
  /-- XFER has ended; the next event is CLOSE (R124). -/
  | closing
deriving DecidableEq, Repr

/-- The hidden state of the command in progress (R45) but for the SPI master: the command itself with its operands (sampled
in the accepting cycle only, R104), the transport's phase, the wait timer, the last write's success, the last value read,
INIT's `err`, the pressure samples, and `B5`. -/
structure Work where
  cmd : Option Instr
  phase : Phase
  timer : Option Nat
  wok : Bool
  rd : Int
  err : Bool
  samples : List Nat
  b5 : Rat
deriving DecidableEq, Repr

/-- The SPI master: the pins `cs_n`, `sclk`, `mosi` (R10, R126) and the shift unit of R45. `mosi` has no value while no
session drives it (R126 "a model gives it no value"; log 11). -/
structure Spi where
  csN : Bool
  sclk : Bool
  mosi : Option Bool
  shift : Byte
  bitCnt : Nat
  byteCnt : Nat
  rxBuf : List Byte
deriving DecidableEq, Repr

/-- The response codes (`60_exceptions.md` R251). -/
inductive Code where
  | ok
  | measFail
  | notInit
  | noValue
  | illegal
  | badReg
  | arith
  | xferFail
deriving DecidableEq, Repr

/-- The response port while `rsp_valid = 1` (`30_encoding.md` R103). -/
structure Rsp where
  code : Code
  data : Word
deriving DecidableEq, Repr

/-- The events of the trace (R6). -/
inductive Event where
  | evOpen (ok : Bool)
  | evXfer (out : List Byte) (k : Nat) (inp : List Byte)
  | evClose
  | evWait (us : Nat)
  | evRsp (code : Code) (data : Word)
deriving DecidableEq, Repr

/-- The environment as an input (R5, R121): the answers listed for the coming transactions, how many draws have been taken
(the index of the free value, log 4), and the bytes still to come in the open session. -/
structure Env where
  draws : List Draw
  taken : Nat
  miso : List Byte
deriving DecidableEq, Repr

/-- What the host drives on its ports in one cycle (R10): `rst`, and `cmd_word` when `cmd_valid = 1`. -/
structure PortIn where
  rst : Bool
  cmd : Option Word
deriving DecidableEq, Repr

/-- The whole state. -/
structure State where
  params : Params
  x : RegFile
  seq : Seq
  work : Work
  spi : Spi
  rsp : Option Rsp
  env : Env
  host : List PortIn
  trace : List Event
deriving DecidableEq, Repr

/-- The register file after reset (R50): STATUS 0, UT 26400; the others have no value, and the model holds zero there, which
no command can read (R51). DESIGN CHOICE, unsafe: log 2. -/
def RegFile.reset : RegFile :=
  { status := 0, temp := 0, press := 0, chipid := 0, chipver := 0, ut := Config.utDefault,
    ac1 := 0, ac2 := 0, ac3 := 0, ac4 := 0, ac5 := 0, ac6 := 0, b1 := 0, b2 := 0, mb := 0, mc := 0, md := 0 }

/-- The hidden state while no command runs: "None of it survives `seq = IDLE`" (R45). DESIGN CHOICE of the values: log 3. -/
def Work.idle : Work :=
  { cmd := none, phase := .closed, timer := none, wok := false, rd := 0, err := false, samples := [], b5 := 0 }

/-- The SPI master at its idle levels (R126), its shift unit at the values of log 3. -/
def Spi.idle : Spi :=
  { csN := true, sclk := true, mosi := none, shift := 0, bitCnt := 0, byteCnt := 0, rxBuf := [] }

/-- The machine right after reset (R50, `70_reset_and_hazards.md` R280): nothing offered, nothing drawn, nothing traced. -/
def State.reset : State :=
  { params := Config.defaultParams, x := RegFile.reset, seq := .idle, work := Work.idle, spi := Spi.idle, rsp := none,
    env := { draws := [], taken := 0, miso := [] }, host := [], trace := [] }

/-- `cmd_ready` (R104): 1 exactly when `seq = IDLE`, so 0 in the cycle of a response too. -/
def State.cmdReady (s : State) : Bool := s.seq = .idle

end Sys2Proof.Machine
end

