-- ==== Sys2Proof/Machine/Flags.lean ====
section
/-! DEFINITION. STATUS and its fields (`10_state.md` R30): every flag computation of the block writes one field and leaves the
rest of the word, the hardwired bits 15:12 among them. -/

namespace Sys2Proof.Machine

/-- The bit of a one-bit field of STATUS (R30). -/
def StatusField.pos : StatusField → Nat
  | .initd => 0
  | .idwarn => 1
  | .calerr => 2
  | .tvalid => 3
  | .pvalid => 4
  | .utstale => 5
  | .mfail => 6
  | .arith => 7
  | .busunav => 8
  | .xfererr => 9

/-- The sticky fields (R30, R31): cleared by reset only. -/
def StatusField.sticky : StatusField → Bool
  | .initd => true
  | .idwarn => false
  | .calerr => false
  | .tvalid => true
  | .pvalid => true
  | .utstale => false
  | .mfail => false
  | .arith => false
  | .busunav => true
  | .xfererr => true

/-- `STATUS.F` on a STATUS word (`00_scope.md` R13). -/
def statusGet (f : StatusField) (st : Half) : Bool := st.getLsbD f.pos

/-- `STATUS.F <- b` on a STATUS word: writes that field only (R13). -/
def statusSet (f : StatusField) (b : Bool) (st : Half) : Half :=
  if b then st ||| BitVec.twoPow 16 f.pos else st &&& ~~~(BitVec.twoPow 16 f.pos)

/-- `STATUS.NSAMP`, bits 11:10 (R30). -/
def nsampGet (st : Half) : Nat := (st.extractLsb' 10 2).toNat

/-- Every bit of STATUS but NSAMP. -/
def nsampMask : Half := 0xF3FF

/-- `STATUS.NSAMP <- n` (R30). -/
def nsampSet (n : Nat) (st : Half) : Half := (st &&& nsampMask) ||| (BitVec.ofNat 16 (n % 4) <<< 10)

/-- Bits 15:12 of STATUS, hardwired zero (R30). -/
def statusReserved (st : Half) : BitVec 4 := st.extractLsb' 12 4

/-- `STATUS.F` of a state. -/
def State.flag (f : StatusField) (s : State) : Bool := statusGet f s.x.status

/-- `STATUS.F <- b` on a state. -/
def State.setFlag (f : StatusField) (b : Bool) (s : State) : State :=
  { s with x := { s.x with status := statusSet f b s.x.status } }

/-- `STATUS.NSAMP` of a state. -/
def State.nsamp (s : State) : Nat := nsampGet s.x.status

/-- `STATUS.NSAMP <- n` on a state. -/
def State.setNsamp (n : Nat) (s : State) : State :=
  { s with x := { s.x with status := nsampSet n s.x.status } }

end Sys2Proof.Machine
end

