-- ==== Sys2Proof/Machine/Operands.lean ====
section
/-! DEFINITION. Operand forms: the casts of `00_scope.md` R13, register numbers and the register file as integers
(`10_state.md` R20, R21), the 32-bit view of GET (`45_accessors.md` R242), the wire frames and what they carry
(`30_encoding.md` R90 to R96), and the bytes of the pressure command (`00_scope.md` R9). -/

namespace Sys2Proof.Machine

/-- `sext_N` (R13): the signed integer whose `n`-bit pattern is the low `n` bits of `v`. -/
def sext (n : Nat) (v : Int) : Int :=
  let u := v % 2 ^ n
  if u < 2 ^ (n - 1) then u else u - 2 ^ n

/-- The reinterpretations of a loaded value (R13, `42_calibration_loader.md` R161). -/
inductive Cast where
  | u8
  | u16
  | s16
deriving DecidableEq, Repr

/-- `cast_u8`, `cast_u16`, `cast_s16` (R13); `%` on integers with a positive divisor is the non-negative remainder. -/
def Cast.apply : Cast → Int → Int
  | .u8, v => v % 2 ^ 8
  | .u16, v => v % 2 ^ 16
  | .s16, v => sext 16 v

/-- The number of a register (R20). -/
def Reg.num : Reg → Byte
  | .status => 0x00
  | .temp => 0x01
  | .press => 0x02
  | .chipid => 0x03
  | .chipver => 0x04
  | .ut => 0x05
  | .ac1 => 0x10
  | .ac2 => 0x11
  | .ac3 => 0x12
  | .ac4 => 0x13
  | .ac5 => 0x14
  | .ac6 => 0x15
  | .b1 => 0x16
  | .b2 => 0x17
  | .mb => 0x18
  | .mc => 0x19
  | .md => 0x1A

/-- The register of a number; `none` for the reserved numbers 0x06 to 0x0F and 0x1B to 0xFF (R20). -/
def Reg.ofNum (r : Byte) : Option Reg :=
  match r.toNat with
  | 0x00 => some .status
  | 0x01 => some .temp
  | 0x02 => some .press
  | 0x03 => some .chipid
  | 0x04 => some .chipver
  | 0x05 => some .ut
  | 0x10 => some .ac1
  | 0x11 => some .ac2
  | 0x12 => some .ac3
  | 0x13 => some .ac4
  | 0x14 => some .ac5
  | 0x15 => some .ac6
  | 0x16 => some .b1
  | 0x17 => some .b2
  | 0x18 => some .mb
  | 0x19 => some .mc
  | 0x1A => some .md
  | _ => none

/-- `x[r]` as the integer R12, R20 and R21 say it holds. -/
def RegFile.read (x : RegFile) : Reg → Int
  | .status => x.status.toNat
  | .temp => x.temp.toInt
  | .press => x.press.toInt
  | .chipid => x.chipid.toNat
  | .chipver => x.chipver.toNat
  | .ut => x.ut.toNat
  | .ac1 => x.ac1.toInt
  | .ac2 => x.ac2.toInt
  | .ac3 => x.ac3.toInt
  | .ac4 => x.ac4.toNat
  | .ac5 => x.ac5.toNat
  | .ac6 => x.ac6.toNat
  | .b1 => x.b1.toInt
  | .b2 => x.b2.toInt
  | .mb => x.mb.toInt
  | .mc => x.mc.toInt
  | .md => x.md.toInt

/-- `x[r] <- v` (R13): the pattern of `v` at the register's width. -/
def RegFile.write (x : RegFile) (r : Reg) (v : Int) : RegFile :=
  match r with
  | .status => { x with status := BitVec.ofInt 16 v }
  | .temp => { x with temp := BitVec.ofInt 32 v }
  | .press => { x with press := BitVec.ofInt 32 v }
  | .chipid => { x with chipid := BitVec.ofInt 8 v }
  | .chipver => { x with chipver := BitVec.ofInt 8 v }
  | .ut => { x with ut := BitVec.ofInt 16 v }
  | .ac1 => { x with ac1 := BitVec.ofInt 16 v }
  | .ac2 => { x with ac2 := BitVec.ofInt 16 v }
  | .ac3 => { x with ac3 := BitVec.ofInt 16 v }
  | .ac4 => { x with ac4 := BitVec.ofInt 16 v }
  | .ac5 => { x with ac5 := BitVec.ofInt 16 v }
  | .ac6 => { x with ac6 := BitVec.ofInt 16 v }
  | .b1 => { x with b1 := BitVec.ofInt 16 v }
  | .b2 => { x with b2 := BitVec.ofInt 16 v }
  | .mb => { x with mb := BitVec.ofInt 16 v }
  | .mc => { x with mc := BitVec.ofInt 16 v }
  | .md => { x with md := BitVec.ofInt 16 v }

/-- `x[r] <- v` on a state. -/
def State.writeReg (r : Reg) (v : Int) (s : State) : State := { s with x := s.x.write r v }

/-- `View32(r)` (R242): STATUS, CHIPID, CHIPVER, UT, AC4, AC5, AC6 zero-extended, TEMP and PRESS as they are, the signed
coefficients sign-extended. -/
def RegFile.view32 (x : RegFile) : Reg → Word
  | .status => x.status.setWidth 32
  | .temp => x.temp
  | .press => x.press
  | .chipid => x.chipid.setWidth 32
  | .chipver => x.chipver.setWidth 32
  | .ut => x.ut.setWidth 32
  | .ac1 => x.ac1.signExtend 32
  | .ac2 => x.ac2.signExtend 32
  | .ac3 => x.ac3.signExtend 32
  | .ac4 => x.ac4.setWidth 32
  | .ac5 => x.ac5.setWidth 32
  | .ac6 => x.ac6.setWidth 32
  | .b1 => x.b1.signExtend 32
  | .b2 => x.b2.signExtend 32
  | .mb => x.mb.signExtend 32
  | .mc => x.mc.signExtend 32
  | .md => x.md.signExtend 32

/-- `HasValue(r)` (R241). -/
def State.hasValue (r : Reg) (s : State) : Bool :=
  match r with
  | .status => true
  | .ut => true
  | .temp => s.flag .tvalid
  | .press => s.flag .pvalid
  | .chipid => s.flag .initd
  | .chipver => s.flag .initd
  | .ac1 => s.flag .initd
  | .ac2 => s.flag .initd
  | .ac3 => s.flag .initd
  | .ac4 => s.flag .initd
  | .ac5 => s.flag .initd
  | .ac6 => s.flag .initd
  | .b1 => s.flag .initd
  | .b2 => s.flag .initd
  | .mb => s.flag .initd
  | .mc => s.flag .initd
  | .md => s.flag .initd

/-- `FR_RD1(a)`, `FR_RD2(a)`, `FR_RD3(a)` (R91 to R93, R141): the address byte, then `n` bytes of zero. -/
def frameRead (a : Byte) (n : Nat) : List Byte := a :: List.replicate n 0

/-- `FR_WR1(a, v)` (R94): the address byte, the data byte, the pad byte. -/
def frameWrite (a v : Byte) : List Byte := [a, v, 0]

/-- Data bytes combined big-endian, the first most significant (`20_memory.md` R63, R92, R93, R96). -/
def bigEndian (bs : List Byte) : Nat := bs.foldl (fun acc b => acc * 256 + b.toNat) 0

/-- The value of a read of `n` data bytes from what `TXN` returned (R141): the sentinel -1 unless all `n + 1` bytes were
exchanged; `inp[0]` is never used (R70). -/
def readValue (n : Nat) (r : Nat × List Byte) : Int :=
  if r.1 ≠ n + 1 then -1 else (bigEndian (r.2.drop 1) : Int)

/-- Whether a write succeeded, from what `TXN` returned (R145). -/
def writeOk (r : Nat × List Byte) : Bool := r.1 = 3

/-- `PRESS_BYTE` (R9, `43_measurement.md` R194). -/
def pressByte (p : Params) : Byte :=
  if p.ossInCmd then p.pressCmd ||| (BitVec.ofNat 8 Config.mode <<< 6) else p.pressCmd

/-- The raw pressure sample of a 24-bit value (`43_measurement.md` R189). -/
def rawSample (v : Int) : Nat := v.toNat >>> (8 - Config.mode)

/-- Cycles of `clk` the wait timer counts for `us` microseconds (`60_exceptions.md` R262): `ceil(us × CLK_HZ / 10^6)`. -/
def waitCycles (p : Params) (us : Nat) : Nat := (us * p.clkHz + 999999) / 1000000

/-- The bits of a byte in the order of the wire, most significant first (`20_memory.md` R64). -/
def bitsMsbFirst (b : Byte) : List Bool := (List.range 8).map fun j => b.getLsbD (7 - j)

/-- The four bits of `rsp_code` (R251). -/
def Code.bits : Code → BitVec 4
  | .ok => 0x0
  | .measFail => 0x1
  | .notInit => 0x2
  | .noValue => 0x3
  | .illegal => 0x4
  | .badReg => 0x5
  | .arith => 0x6
  | .xferFail => 0x7

end Sys2Proof.Machine
end

