-- ==== Sys2Proof/Machine/Ops.lean ====
section
/-! DEFINITION. The shared operations every command is built from: raising a condition (`60_exceptions.md` R250, R252; the block
has no trap, R256), responding (`00_scope.md` R13), waiting (R262), reset (`70_reset_and_hazards.md` R280, R281), the SPI shift
unit (`40_bus_transport.md` R127), OPEN, XFER, CLOSE and TXN (R120 to R124), MemRead and MemWrite
(`41_register_transactions.md` R141, R145). -/

namespace Sys2Proof.Machine

/-- The conditions of R252. -/
inductive Condition where
  | busUnavailable
  | transportError (k n : Nat)
  | initReadFailed
  | tempSampleFailed
  | pressSampleFailed
  | chipIdMismatch (id : Byte)
  | measurementFailed
  | arithFault
  | notInit
  | noValue
  | illegal
  | badReg
  | xferFail
deriving DecidableEq, Repr

/-- The STATUS field that records a condition (R252). A failed pressure sample is recorded in NSAMP, which counts the good
ones; the refusals and XferFail are recorded by their code alone. -/
def Condition.field : Condition → Option StatusField
  | .busUnavailable => some .busunav
  | .transportError _ _ => some .xfererr
  | .initReadFailed => some .calerr
  | .tempSampleFailed => some .utstale
  | .pressSampleFailed => none
  | .chipIdMismatch _ => some .idwarn
  | .measurementFailed => some .mfail
  | .arithFault => some .arith
  | .notInit => none
  | .noValue => none
  | .illegal => none
  | .badReg => none
  | .xferFail => none

/-- The response code that reports a condition (R252); OK for the ones that are absorbed (R253). -/
def Condition.code : Condition → Code
  | .busUnavailable => .ok
  | .transportError _ _ => .ok
  | .initReadFailed => .ok
  | .tempSampleFailed => .ok
  | .pressSampleFailed => .ok
  | .chipIdMismatch _ => .ok
  | .measurementFailed => .measFail
  | .arithFault => .arith
  | .notInit => .notInit
  | .noValue => .noValue
  | .illegal => .illegal
  | .badReg => .badReg
  | .xferFail => .xferFail

/-- `raise <Condition>` (R250): record the condition in its STATUS field and go on. This is all that taking an exception is
on this block: nothing is saved, no mode changes, control goes nowhere (R256), so there is no return either (R257). -/
def raise (c : Condition) (s : State) : State :=
  match c.field with
  | some f => s.setFlag f true
  | none => s

/-- Append an event to the trace (R6). -/
def State.emit (e : Event) (s : State) : State := { s with trace := s.trace ++ [e] }

/-- `respond(code, data)` (R13): drive the response port, append `EvRsp`; the hidden state ends with the command (R45). The state it
gives is the cycle of the response, in which `cmd_ready` is still 0 (`30_encoding.md` R104); `endResponse` is its `seq <- IDLE`. -/
def respond (c : Code) (data : Word) (s : State) : State :=
  { s with rsp := some ⟨c, data⟩, trace := s.trace ++ [.evRsp c data], seq := .respond, work := Work.idle }

/-- Respond with STATUS as it stands (R103: INIT, MEAST, MEASP). -/
def respondStatus (c : Code) (s : State) : State := respond c (s.x.view32 .status) s

/-- A decode-time refusal (`30_encoding.md` R106): the condition's code and zero, nothing else. -/
def refuse (c : Condition) (s : State) : State := respond c.code 0 s

/-- `WAIT(us)` inside a whole command (R262 "for it `WAIT` is the trace event and nothing else"). -/
def wait (us : Nat) (s : State) : State := s.emit (.evWait us)

/-- The reset state, entered from any state (R280, R281): the block's own state as `State.reset` has it; the bytes of an
abandoned session are dropped. The parameters, the inputs still to come and the trace are not the block's (log 13). -/
def applyReset (s : State) : State :=
  { State.reset with params := s.params, env := { s.env with miso := [] }, host := s.host, trace := s.trace }

/-- A cycle in which no command ends: `rsp_valid = 0` (`30_encoding.md` R103). -/
def lowerRsp (s : State) : State := { s with rsp := none }

/-- The end of the cycle of a response: `rsp_valid` falls and `seq <- IDLE`, so the next cycle is ready for a word (R13,
`30_encoding.md` R103, R104). -/
def endResponse (s : State) : State := { lowerRsp s with seq := .idle }

/-- What the host drives in this cycle, and the state with the later cycles left (R10); past the end of the list nothing is
driven (log 9). -/
def takePort (s : State) : PortIn × State :=
  match s.host with
  | p :: ps => (p, { s with host := ps })
  | [] => (⟨false, none⟩, s)

/-- The environment's draw for a transaction (R121): the next listed answer, or the free value. -/
def takeDraw (s : State) : Draw × State :=
  match s.env.draws with
  | d :: ds => (d, { s with env := { s.env with draws := ds, taken := s.env.taken + 1 } })
  | [] => (⟨(Config.freeDraw s.env.taken).1, (Config.freeDraw s.env.taken).2⟩,
      { s with env := { s.env with taken := s.env.taken + 1 } })

/-- A session begins: `cs_n` low, the counters and the receive buffer start afresh. -/
def Spi.begin (sp : Spi) : Spi := { sp with csN := false, bitCnt := 0, byteCnt := 0, rxBuf := [] }

/-- A byte to send enters the shift register. -/
def Spi.load (o : Byte) (sp : Spi) : Spi := { sp with shift := o, bitCnt := 0 }

/-- The falling edge of `sclk`: `mosi` is driven with the next bit (R127). -/
def Spi.fall (sp : Spi) : Spi := { sp with sclk := false, mosi := some (sp.shift.getLsbD 7) }

/-- The rising edge of `sclk`: `miso` is sampled into the shift register (R127). -/
def Spi.rise (miso : Bool) (sp : Spi) : Spi :=
  { sp with sclk := true, shift := (sp.shift <<< 1) ||| (BitVec.ofBool miso).setWidth 8, bitCnt := sp.bitCnt + 1 }

/-- After the eighth rising edge the byte is complete (R127): it goes to the receive buffer. -/
def Spi.endByte (sp : Spi) : Spi :=
  { sp with bitCnt := 0, byteCnt := sp.byteCnt + 1, rxBuf := sp.rxBuf ++ [sp.shift] }

/-- Bits exchanged one after the other, each a falling and a rising edge. -/
def Spi.shiftBits (bits : List Bool) (sp : Spi) : Spi := bits.foldl (fun q b => q.fall.rise b) sp

/-- One byte out, one byte in (R123, R127), most significant bit first. -/
def Spi.byte (o i : Byte) (sp : Spi) : Spi := ((sp.load o).shiftBits (bitsMsbFirst i)).endByte

/-- The loop of XFER (R123): byte `i` of `out` goes out while byte `i` of the answer comes in, as long as both last. -/
def Spi.xfer : List Byte → List Byte → Spi → Spi
  | o :: os, i :: is, sp => Spi.xfer os is (sp.byte o i)
  | _, _, sp => sp

/-- OPEN on an unavailable bus (R122): the condition and the event, no session. -/
def openFailed (s : State) : State := (raise .busUnavailable s).emit (.evOpen false)

/-- OPEN on an available bus (R122). -/
def openSession (s : State) : State := { s with spi := s.spi.begin }.emit (.evOpen true)

/-- The end of XFER (R123): the event with the bytes exchanged, and the condition of a short count. -/
def endXfer (out : List Byte) (s : State) : State :=
  let s1 := s.emit (.evXfer out s.spi.byteCnt s.spi.rxBuf)
  if s.spi.byteCnt < out.length then raise (.transportError s.spi.byteCnt out.length) s1 else s1

/-- CLOSE (R124): `cs_n` high and the pins at their idle levels (R126), the shift unit at rest (log 14). -/
def closeSession (s : State) : State := { s with spi := Spi.idle }.emit .evClose

/-- `TXN(out)` (R120): one session; the number of bytes exchanged and the bytes received. -/
def txn (out : List Byte) (s : State) : (Nat × List Byte) × State :=
  let (d, s1) := takeDraw s
  if d.avail then
    let s2 := openSession s1
    let s3 := { s2 with spi := s2.spi.xfer out d.bytes }
    ((s3.spi.byteCnt, s3.spi.rxBuf), closeSession (endXfer out s3))
  else ((0, []), openFailed s1)

/-- `MemRead(addr, n)` (R141). -/
def memRead (a : Byte) (n : Nat) (s : State) : Int × State :=
  let (r, s1) := txn (frameRead a n) s
  (readValue n r, s1)

/-- `MemWrite(addr, 1, v)` (R145): `true` is `ok`. -/
def memWrite (a v : Byte) (s : State) : Bool × State :=
  let (r, s1) := txn (frameWrite a v) s
  (writeOk r, s1)

end Sys2Proof.Machine
end

