-- ==== Sys2Proof/Machine/Accessors.lean ====
section
/-! DEFINITION. The accessor: GET (`45_accessors.md` R240 to R245). -/

namespace Sys2Proof.Machine

/-- The state GET `r` leaves (R240): BADREG for a reserved number, NOVALUE for a register without a value, else its view. -/
def getRun (r : Byte) (s : State) : State :=
  match Reg.ofNum r with
  | none => refuse .badReg s
  | some g => if s.hasValue g then respond .ok (s.x.view32 g) s else refuse .noValue s

/-- GET `r` (R240). -/
def execGet (r : Byte) (s : State) : Host.Outcome State Fault Refusal := .next (getRun r s)

end Sys2Proof.Machine
end

