-- ==== Sys2Proof/Machine/Loader.lean ====
section
/-! DEFINITION. The calibration loader: INIT (`42_calibration_loader.md` R160 to R168). -/

namespace Sys2Proof.Machine

/-- A row of LOAD_ORDER (R161): the register, the address byte, the data bytes of the frame, the cast. -/
structure LoadEntry where
  reg : Reg
  addr : Byte
  n : Nat
  cast : Cast
deriving DecidableEq, Repr

/-- LOAD_ORDER (R161): AC1 to MD, then the chip ID, then the version. -/
def loadOrder (p : Params) : List LoadEntry :=
  [⟨.ac1, p.aAc1, 2, .s16⟩, ⟨.ac2, p.aAc2, 2, .s16⟩, ⟨.ac3, p.aAc3, 2, .s16⟩,
   ⟨.ac4, p.aAc4, 2, .u16⟩, ⟨.ac5, p.aAc5, 2, .u16⟩, ⟨.ac6, p.aAc6, 2, .u16⟩,
   ⟨.b1, p.aB1, 2, .s16⟩, ⟨.b2, p.aB2, 2, .s16⟩, ⟨.mb, p.aMb, 2, .s16⟩,
   ⟨.mc, p.aMc, 2, .s16⟩, ⟨.md, p.aMd, 2, .s16⟩,
   ⟨.chipid, p.aId, 1, .u8⟩, ⟨.chipver, p.aVer, 1, .u8⟩]

/-- The start of INIT (R160): IDWARN and CALERR cleared. -/
def initStart (s : State) : State := (s.setFlag .idwarn false).setFlag .calerr false

/-- What INIT does with a value read (R160, R162, R163): the cast, the sentinel's too, goes to the register; `err` remembers
a failure. -/
def storeLoaded (e : LoadEntry) (v : Int) (acc : Bool × State) : Bool × State :=
  (acc.1 || v == -1, acc.2.writeReg e.reg (e.cast.apply v))

/-- One read of the load (R160). -/
def loadOne (acc : Bool × State) (e : LoadEntry) : Bool × State :=
  storeLoaded e (memRead e.addr e.n acc.2).1 (acc.1, (memRead e.addr e.n acc.2).2)

/-- All the reads, in order, whatever the outcome of the earlier ones (R161). -/
def loadAll (es : List LoadEntry) (acc : Bool × State) : Bool × State := es.foldl loadOne acc

/-- The end of INIT (R160, R164, R165): identity check, CALERR, INITD, respond OK. -/
def initFinish (err : Bool) (s : State) : State :=
  let s1 := if s.x.chipid ≠ Config.chipIdExpected then raise (.chipIdMismatch s.x.chipid) s else s
  let s2 := if err then raise .initReadFailed s1 else s1
  respondStatus .ok (s2.setFlag .initd true)

/-- INIT (R160). -/
def execInit (s : State) : Host.Outcome State Fault Refusal :=
  .next (initFinish (loadAll (loadOrder s.params) (false, initStart s)).1
    (loadAll (loadOrder s.params) (false, initStart s)).2)

end Sys2Proof.Machine
end

