-- ==== Sys2Proof/Machine/Compensation.lean ====
section
/-! DEFINITION. The compensation pipeline (`44_compensation.md` R200 to R228): exact rational arithmetic, one floor per result
(R205, R207). `none` is the spec's `Fault`. -/

namespace Sys2Proof.Machine

/-- Whether an integer fits a signed 32-bit register (R213, R226). -/
def fitsS32 (v : Int) : Bool := -2 ^ 31 ≤ v && v ≤ 2 ^ 31 - 1

/-- `T = floor((B5 + 8) / 2^4)` (R207, R214). -/
def temperatureOf (b5 : Rat) : Int := Rat.floor ((b5 + 8) / 2 ^ 4)

/-- `CALC_T` (R210): `B5` and `T`, or `none` on a zero divisor or a result out of range (R213). -/
def calcT (UT AC5 AC6 MC MD : Int) : Option (Rat × Int) :=
  let X1 : Rat := (((UT : Rat) - AC6) * AC5) / 2 ^ 15
  let S : Rat := X1 + MD
  if S = 0 then none
  else
    let X2 : Rat := ((MC : Rat) * 2 ^ 11) / S
    let B5 : Rat := X1 + X2
    let T : Int := temperatureOf B5
    if fitsS32 T then some (B5, T) else none

/-- `B4` of `CALC_P` (R220). -/
def calcB4 (B5 : Rat) (AC3 AC4 B1 : Int) : Rat :=
  let B6 := B5 - 4000
  let X1b := ((AC3 : Rat) * B6) / 2 ^ 13
  let X2b := ((B1 : Rat) * (B6 ^ 2 / 2 ^ 12)) / 2 ^ 16
  let X3b := ((X1b + X2b) + 2) / 2 ^ 2
  ((AC4 : Rat) * (X3b + 32768)) / 2 ^ 15

/-- `B3` of `CALC_P` (R220, R206): `<< MODE` is multiplication by `2^MODE`. -/
def calcB3 (mode : Nat) (B5 : Rat) (AC1 AC2 B2 : Int) : Rat :=
  let B6 := B5 - 4000
  let X1a := ((B2 : Rat) * (B6 ^ 2 / 2 ^ 12)) / 2 ^ 11
  let X2a := ((AC2 : Rat) * B6) / 2 ^ 11
  let X3a := X1a + X2a
  ((((AC1 : Rat) * 4 + X3a) * 2 ^ mode) + 2) / 4

/-- The last lines of `CALC_P` (R220), from `B3` and a non-zero `B4` to the pressure. -/
def pressureOf (mode : Nat) (UP B3 B4 : Rat) : Rat :=
  let B7 := (UP - B3) * ((50000 >>> mode : Nat) : Rat)
  let p := (B7 * 2) / B4
  let X1c := (p / 2 ^ 8) ^ 2
  let X1d := (X1c * 3038) / 2 ^ 16
  let X2c := (-7357 * p) / 2 ^ 16
  p + (X1d + X2c + 3791) / 2 ^ 4

/-- `CALC_P` at any oversampling mode (R220): `P`, or `none` on a zero divisor or a result out of range (R226). -/
def calcPAt (mode : Nat) (B5 UP : Rat) (AC1 AC2 AC3 AC4 B1 B2 : Int) : Option Int :=
  let B4 := calcB4 B5 AC3 AC4 B1
  if B4 = 0 then none
  else
    let P : Int := Rat.floor (pressureOf mode UP (calcB3 mode B5 AC1 AC2 B2) B4)
    if fitsS32 P then some P else none

/-- `CALC_P` (R220): the block runs mode 3 only (R7, R201). -/
def calcP (B5 UP : Rat) (AC1 AC2 AC3 AC4 B1 B2 : Int) : Option Int := calcPAt Config.mode B5 UP AC1 AC2 AC3 AC4 B1 B2

/-- The arguments phase T gives `CALC_T` (R182). -/
def calcTOf (x : RegFile) : Option (Rat × Int) :=
  calcT (x.read .ut) (x.read .ac5) (x.read .ac6) (x.read .mc) (x.read .md)

/-- The arguments phase P gives `CALC_P` (R186). -/
def calcPOf (x : RegFile) (B5 UP : Rat) : Option Int :=
  calcP B5 UP (x.read .ac1) (x.read .ac2) (x.read .ac3) (x.read .ac4) (x.read .b1) (x.read .b2)

/-- The exact mean of the recorded samples (`43_measurement.md` R191). -/
def meanOf (samples : List Nat) : Rat := (samples.sum : Rat) / (samples.length : Rat)

end Sys2Proof.Machine
end

