-- ==== Sys2Proof/Machine/Measurement.lean ====
section
/-! DEFINITION. The measurement engine: MEAST and MEASP (`43_measurement.md` R180 to R196). -/

namespace Sys2Proof.Machine

/-- The start of MEAST (R181): UTSTALE and ARITH cleared. -/
def meastStart (s : State) : State := (s.setFlag .utstale false).setFlag .arith false

/-- The start of MEASP (R186): UTSTALE, ARITH, MFAIL and NSAMP cleared. -/
def measpStart (s : State) : State := (((s.setFlag .utstale false).setFlag .arith false).setFlag .mfail false).setNsamp 0

/-- The UT update (R183): a sample whose write and read were both full is stored, otherwise UT is kept and UTSTALE set. -/
def storeUt (w : Bool) (v : Int) (s : State) : State :=
  if w && v != -1 then s.writeReg .ut v else raise .tempSampleFailed s

/-- The arithmetic of phase T (R182, R185): TEMP and TVALID, or ARITH and no `B5`. -/
def compensateT (s : State) : Option Rat × State :=
  match calcTOf s.x with
  | none => (none, raise .arithFault s)
  | some (b5, t) => (some b5, (s.writeReg .temp t).setFlag .tvalid true)

/-- The bus part of phase T (R182 steps T0 to T2): the write's success, the value read. -/
def sampleT (s : State) : Bool × Int × State :=
  let (w, s1) := memWrite s.params.aCtrlMeasW s.params.tempCmd s
  let (v, s2) := memRead s.params.aDataR 2 (wait Config.waitTUs s1)
  (w, v, s2)

/-- `PHASE_T` (R182): `none` is `Fault`. -/
def phaseT (s : State) : Option Rat × State :=
  let (w, v, s1) := sampleT s
  compensateT (storeUt w v s1)

/-- The end of MEAST (R181). -/
def meastFinish (r : Option Rat) (s : State) : State :=
  match r with
  | none => respondStatus Condition.arithFault.code s
  | some _ => respondStatus .ok s

/-- One pressure sample (R188): the write, the wait, the read. -/
def sampleP (s : State) : Bool × Int × State :=
  let (w, s1) := memWrite s.params.aCtrlMeasW (pressByte s.params) s
  let (v, s2) := memRead s.params.aDataR 3 (wait Config.waitPUs s1)
  (w, v, s2)

/-- A sample is recorded when its write and its read were both full (R188, R189). -/
def recordSample (w : Bool) (v : Int) (samples : List Nat) : List Nat :=
  if w && v != -1 then samples ++ [rawSample v] else samples

/-- The loop of phase P (R186, R188): all iterations always run. -/
def samplesP : Nat → List Nat × State → List Nat × State
  | 0, acc => acc
  | n + 1, acc => samplesP n (recordSample (sampleP acc.2).1 (sampleP acc.2).2.1 acc.1, (sampleP acc.2).2.2)

/-- A condition that ends MEASP: recorded and reported (R186, R252). -/
def failWith (c : Condition) (s : State) : State := respondStatus c.code (raise c s)

/-- The end of MEASP after the loop (R186, R191 to R193). -/
def measpFinish (b5 : Rat) (samples : List Nat) (s : State) : State :=
  let s1 := s.setNsamp samples.length
  if samples.length = 0 then failWith .measurementFailed s1
  else
    match calcPOf s1.x b5 (meanOf samples) with
    | none => failWith .arithFault s1
    | some p => respondStatus .ok ((s1.writeReg .press p).setFlag .pvalid true)

/-- Phase P (R186): with no `B5` the command ends (R187). -/
def phaseP (r : Option Rat) (s : State) : State :=
  match r with
  | none => respondStatus Condition.arithFault.code s
  | some b5 => measpFinish b5 (samplesP Config.nSamples ([], s)).1 (samplesP Config.nSamples ([], s)).2

/-- The state MEAST leaves (R181). -/
def meastRun (s : State) : State :=
  if s.flag .initd then meastFinish (phaseT (meastStart s)).1 (phaseT (meastStart s)).2 else refuse .notInit s

/-- The state MEASP leaves (R186). -/
def measpRun (s : State) : State :=
  if s.flag .initd then phaseP (phaseT (measpStart s)).1 (phaseT (measpStart s)).2 else refuse .notInit s

/-- MEAST (R181). -/
def execMeast (s : State) : Host.Outcome State Fault Refusal := .next (meastRun s)

/-- MEASP (R186). -/
def execMeasp (s : State) : Host.Outcome State Fault Refusal := .next (measpRun s)

end Sys2Proof.Machine
end

