-- ==== Sys2Proof/Machine/Transactions.lean ====
section
/-! DEFINITION. The register transactions as host commands: RDB, RDW, RDT, WRR (`41_register_transactions.md` R140 to R147). -/

namespace Sys2Proof.Machine

/-- The answer of a read command (R142 to R144): the value zero-extended, or XFERFAIL with the sentinel. -/
def respondRead (v : Int) (s : State) : State :=
  if v = -1 then respond Condition.xferFail.code 0xFFFFFFFF s else respond .ok (BitVec.ofInt 32 v) s

/-- The answer of a write command (R146). -/
def respondWrite (ok : Bool) (s : State) : State :=
  if ok then respond .ok 0 s else respond Condition.xferFail.code 0xFFFFFFFF s

/-- RDB `a` (R142). -/
def execRdb (a : Byte) (s : State) : Host.Outcome State Fault Refusal :=
  .next (respondRead (memRead a 1 s).1 (memRead a 1 s).2)

/-- RDW `a` (R143). -/
def execRdw (a : Byte) (s : State) : Host.Outcome State Fault Refusal :=
  .next (respondRead (memRead a 2 s).1 (memRead a 2 s).2)

/-- RDT `a` (R144). -/
def execRdt (a : Byte) (s : State) : Host.Outcome State Fault Refusal :=
  .next (respondRead (memRead a 3 s).1 (memRead a 3 s).2)

/-- WRR `a`, `d` (R146). -/
def execWrr (a d : Byte) (s : State) : Host.Outcome State Fault Refusal :=
  .next (respondWrite (memWrite a d s).1 (memWrite a d s).2)

end Sys2Proof.Machine
end

