-- ==== Sys2Proof/Machine/Dispatch.lean ====
section
/-! DEFINITION. One arm per command, each a call of its meaning. -/

namespace Sys2Proof.Machine

def exec (i : Instr) (s : State) : Host.Outcome State Fault Refusal :=
  match i with
  | .init => Sys2Proof.Machine.execInit s
  | .meast => Sys2Proof.Machine.execMeast s
  | .measp => Sys2Proof.Machine.execMeasp s
  | .get r => Sys2Proof.Machine.execGet r s
  | .rdb a => Sys2Proof.Machine.execRdb a s
  | .rdw a => Sys2Proof.Machine.execRdw a s
  | .rdt a => Sys2Proof.Machine.execRdt a s
  | .wrr a d => Sys2Proof.Machine.execWrr a d s

end Sys2Proof.Machine
end

