-- ==== Sys2Proof/Machine/Fetch.lean ====
section
/-! DEFINITION. Taking a command word from the command port (`30_encoding.md` R104 to R106). -/

namespace Sys2Proof.Machine

/-- A command word taken in IDLE (R104): the command it decodes to, or ILLEGAL with no effect (R105). -/
def takeWord (w : Word) (s : State) : Host.Outcome State Fault Refusal :=
  match decode w with
  | .ok i => exec i s
  | .error _ => .next (refuse .illegal s)

end Sys2Proof.Machine
end

