-- ==== Sys2Proof/Machine/Sequencer.lean ====
section
/-! DEFINITION. The block at the grain of its sequencer (`10_state.md` R40, R41) and of the edges of `sclk` (`40_bus_transport.md`
R127, R130): `start` takes a command, `seqTick` does the next event of the step in progress, `tick` is one event of the block
with its input ports, `rst` among them (`70_reset_and_hazards.md` R280, R281). `exec` is a whole command at once; the two are two readings
of the spec, the step lists here, the pseudocode there (log 1). -/

namespace Sys2Proof.Machine

/-- A command is taken and its first step is entered (R41, R104); every command initialises the hidden state it uses (R50). -/
def enter (i : Instr) (q : Seq) (s : State) : State := { s with seq := q, work := { Work.idle with cmd := some i } }

/-- A command taken in IDLE: the decode-time refusals go straight to a response (R41, `30_encoding.md` R106), the others enter
their step list. -/
def start (i : Instr) (s : State) : State :=
  match i with
  | .init => enter i (.i 0) (initStart s)
  | .meast => if s.flag .initd then enter i (.t 0) (meastStart s) else refuse .notInit s
  | .measp => if s.flag .initd then enter i (.t 0) (measpStart s) else refuse .notInit s
  | .get r =>
    match Reg.ofNum r with
    | none => refuse .badReg s
    | some g => if s.hasValue g then enter i .g0 s else refuse .noValue s
  | .rdb _ => enter i .x0 s
  | .rdw _ => enter i .x0 s
  | .rdt _ => enter i .x0 s
  | .wrr _ _ => enter i .x0 s

/-- The frame a transaction step sends (R40, `30_encoding.md` R90); `none` for the steps that are no transaction. -/
def frameOf (s : State) : Option (List Byte) :=
  match s.seq with
  | .x0 =>
    match s.work.cmd with
    | some (.rdb a) => some (frameRead a 1)
    | some (.rdw a) => some (frameRead a 2)
    | some (.rdt a) => some (frameRead a 3)
    | some (.wrr a d) => some (frameWrite a d)
    | _ => none
  | .i n => ((loadOrder s.params)[n.val]?).map fun e => frameRead e.addr e.n
  | .t n =>
    match n.val with
    | 0 => some (frameWrite s.params.aCtrlMeasW s.params.tempCmd)
    | 2 => some (frameRead s.params.aDataR 2)
    | _ => none
  | .p _ j =>
    match j.val with
    | 0 => some (frameWrite s.params.aCtrlMeasW (pressByte s.params))
    | 2 => some (frameRead s.params.aDataR 3)
    | _ => none
  | _ => none

/-- The step after I`n` (R40). -/
def nextI (n : Fin 14) : Seq := if h : n.val + 1 < 14 then .i ⟨n.val + 1, h⟩ else .idle

/-- The step after P(`n`,2) (R40). -/
def nextP (n : Fin 3) : Seq := if h : n.val + 1 < 3 then .p ⟨n.val + 1, h⟩ 0 else .p9

/-- What a transaction step does with what `TXN` returned, and the step that follows (R40, R41). -/
def afterTxn (r : Nat × List Byte) (s : State) : State :=
  match s.seq with
  | .x0 =>
    match s.work.cmd with
    | some (.wrr _ _) => { s with work := { s.work with wok := writeOk r }, seq := .x1 }
    | some (.rdb _) => { s with work := { s.work with rd := readValue 1 r }, seq := .x1 }
    | some (.rdw _) => { s with work := { s.work with rd := readValue 2 r }, seq := .x1 }
    | some (.rdt _) => { s with work := { s.work with rd := readValue 3 r }, seq := .x1 }
    | _ => s
  | .i n =>
    match (loadOrder s.params)[n.val]? with
    | some e =>
      let (err, s1) := storeLoaded e (readValue e.n r) (s.work.err, s)
      { s1 with work := { s1.work with err := err }, seq := nextI n }
    | none => s
  | .t n =>
    match n.val with
    | 0 => { s with work := { s.work with wok := writeOk r }, seq := .t 1 }
    | 2 => { s with work := { s.work with rd := readValue 2 r }, seq := .t 3 }
    | _ => s
  | .p n j =>
    match j.val with
    | 0 => { s with work := { s.work with wok := writeOk r }, seq := .p n 1 }
    | 2 => { s with work := { s.work with samples := recordSample s.work.wok (readValue 3 r) s.work.samples }, seq := nextP n }
    | _ => s
  | _ => s

/-- The next event of the transaction of frame `out` (R120 to R124): OPEN; then before each byte the bus is sampled (R130) and
the byte goes bit by bit, a falling and a rising edge each (R127); then the end of XFER; then CLOSE. -/
def txnTick (out : List Byte) (s : State) : State :=
  match s.work.phase with
  | .closed =>
    let (d, s1) := takeDraw s
    if d.avail then
      { openSession s1 with work := { s1.work with phase := .gap }, env := { s1.env with miso := d.bytes } }
    else afterTxn (0, []) (openFailed s1)
  | .gap =>
    match out[s.spi.byteCnt]?, s.env.miso with
    | some o, _ :: _ => { s with spi := s.spi.load o, work := { s.work with phase := .fall } }
    | _, _ => { endXfer out s with work := { s.work with phase := .closing } }
  | .fall => { s with spi := s.spi.fall, work := { s.work with phase := .rise } }
  | .rise =>
    let sp := s.spi.rise ((s.env.miso.headD 0).getLsbD (7 - s.spi.bitCnt))
    if sp.bitCnt < 8 then { s with spi := sp, work := { s.work with phase := .fall } }
    else { s with spi := sp.endByte, env := { s.env with miso := s.env.miso.tail }, work := { s.work with phase := .gap } }
  | .closing =>
    afterTxn (s.spi.byteCnt, s.spi.rxBuf)
      (closeSession { s with env := { s.env with miso := [] }, work := { s.work with phase := .closed } })

/-- A wait step (`60_exceptions.md` R262): the event and the timer loaded, one count a tick, then the step that follows. -/
def waitTick (us : Nat) (q : Seq) (s : State) : State :=
  match s.work.timer with
  | none => { wait us s with work := { s.work with timer := some (waitCycles s.params us) } }
  | some (n + 1) => { s with work := { s.work with timer := some n } }
  | some 0 => { s with work := { s.work with timer := none }, seq := q }

/-- Step T3 (R40): the end of MEAST, or for MEASP the first pressure step, or its end on a fault (R187). -/
def stepT3 (s : State) : State :=
  let (r, s1) := compensateT (storeUt s.work.wok s.work.rd s)
  match s.work.cmd with
  | some .measp =>
    match r with
    | none => respondStatus Condition.arithFault.code s1
    | some b5 => { s1 with work := { s1.work with b5 := b5, samples := [] }, seq := .p 0 0 }
  | _ => meastFinish r s1

/-- A transaction step's next event. -/
def txnStep (s : State) : State :=
  match frameOf s with
  | some out => txnTick out s
  | none => s

/-- The next event of the step in progress (R40, R41). -/
def seqTick (s : State) : State :=
  match s.seq with
  | .idle => s
  | .respond => endResponse s
  | .x0 => txnStep s
  | .x1 =>
    match s.work.cmd with
    | some (.wrr _ _) => respondWrite s.work.wok s
    | _ => respondRead s.work.rd s
  | .g0 =>
    match s.work.cmd with
    | some (.get r) => getRun r s
    | _ => s
  | .i n => if n.val = 13 then initFinish s.work.err s else txnStep s
  | .t n =>
    match n.val with
    | 1 => waitTick Config.waitTUs (.t 2) s
    | 3 => stepT3 s
    | _ => txnStep s
  | .p n j =>
    match j.val with
    | 1 => waitTick Config.waitPUs (.p n 2) s
    | _ => txnStep s
  | .p9 => measpFinish s.work.b5 s.work.samples s

/-- One event of the block with what its input ports show: `rst` first (R280), then in IDLE the command offered, otherwise the
step in progress, the cycle of the response included, which does not look at the command port (R104, log 22). -/
def tick (p : PortIn) (s : State) : State :=
  if p.rst then applyReset s
  else if s.seq = .idle then
    match p.cmd with
    | none => lowerRsp s
    | some w =>
      match decode w with
      | .ok i => start i (lowerRsp s)
      | .error _ => refuse .illegal (lowerRsp s)
  else seqTick s

/-- `n` events of the step lists with nothing offered at the ports. -/
def seqTicks : Nat → State → State
  | 0, s => s
  | n + 1, s => seqTicks n (seqTick s)

end Sys2Proof.Machine
end

