-- ==== Sys2Proof/Machine/Step.lean ====
section
/-! DEFINITION. One step of the machine: reset (`70_reset_and_hazards.md` R280), or in IDLE the command offered, run whole
(`30_encoding.md` R104, R105), or the next event of a command in progress, the end of its response among them (log 1). -/

namespace Sys2Proof.Machine

/-- One step. -/
def step (s : State) : Host.Outcome State Fault Refusal :=
  let (p, s1) := takePort s
  if p.rst then .next (applyReset s1)
  else if s1.seq = .idle then
    match p.cmd with
    | none => .next (lowerRsp s1)
    | some w => takeWord w (lowerRsp s1)
  else .next (seqTick s1)

/-- `s` with a command word offered at the next step and the sequencer in IDLE, where a word is taken (R104). It stands for
the host that offers a program's words (log 9). -/
def State.withFetchWord (s : State) (nbits w : Nat) : State :=
  { s with seq := .idle, work := Work.idle, host := ⟨false, some (tableWord nbits w)⟩ :: s.host }

end Sys2Proof.Machine
end

