-- ==== Sys2Proof/Safety.lean ====
section
/-! DEFINITION. The words the statements use: what the environment's answer to a transaction means (`40_bus_transport.md` R121 to
R124), the shape of a trace (R124, R195), and the invariant of a safe state (R30, R125, R126, R128). -/

namespace Sys2Proof

/-- The bytes received in a transaction of `N` bytes (R121, R122): at most `N` of what the environment delivers, none when
the bus is unavailable. -/
def Draw.reply (N : Nat) (d : Draw) : List Byte := if d.avail then d.bytes.take N else []

/-- The transaction of `N` bytes exchanged its full count (R123 "`k = N` is the only success"). -/
def Draw.full (N : Nat) (d : Draw) : Bool := (d.reply N).length == N

/-- What a read of `n` data bytes yields (R141): the data bytes big-endian without the first one received, or -1. -/
def Draw.value (n : Nat) (d : Draw) : Int := if d.full (n + 1) then (Machine.bigEndian (d.reply (n + 1)).tail : Int) else -1

/-- Two answers that differ at most in the first byte delivered. -/
def Draw.SameButFirst (d e : Draw) : Prop :=
  d.avail = e.avail ∧ d.bytes.length = e.bytes.length ∧ d.bytes.tail = e.bytes.tail

namespace Machine

/-- The `n`-th answer an environment will give (R121): from its list, beyond that the free value. -/
def Env.draw (e : Env) (n : Nat) : Draw :=
  match e.draws[n]? with
  | some d => d
  | none => ⟨(Config.freeDraw (e.taken + n)).1, (Config.freeDraw (e.taken + n)).2⟩

/-- The `n`-th answer the environment will give from state `s` on. -/
def drawAt (s : State) (n : Nat) : Draw := s.env.draw n

/-- The environment after `n` more transactions. -/
def envAfter (n : Nat) (e : Env) : Env := { e with draws := e.draws.drop n, taken := e.taken + n }

/-- The trace of one transaction (R122 to R124): a failed OPEN alone, or a whole session. -/
def txnEvents (out : List Byte) (d : Draw) : List Event :=
  if d.avail then [.evOpen true, .evXfer out (d.reply out.length).length (d.reply out.length), .evClose] else [.evOpen false]

/-- STATUS after one transaction of `N` bytes (R122, R123, R131): BUSUNAV or XFERERR may be set, nothing else. -/
def txnStatus (N : Nat) (d : Draw) (st : Half) : Half :=
  if d.avail then (if (d.reply N).length < N then statusSet .xfererr true st else st) else statusSet .busunav true st

/-- The SPI master after a transaction: at rest when a session was held, untouched otherwise (R124, R126). -/
def txnSpi (d : Draw) (sp : Spi) : Spi := if d.avail then Spi.idle else sp

/-- Sessions and waits, one after the other (R124, R125): every session is whole, none overlaps another. -/
def sessionsShape : List Event → Bool
  | [] => true
  | .evOpen false :: es => sessionsShape es
  | .evOpen true :: .evXfer out k inp :: .evClose :: es => inp.length == k && decide (k ≤ out.length) && sessionsShape es
  | .evWait _ :: es => sessionsShape es
  | _ => false

/-- The number of transactions in a trace: one OPEN each (R120). -/
def openCount (es : List Event) : Nat := es.countP fun e => match e with | .evOpen _ => true | _ => false

/-- The waits in a trace, in order. -/
def waitsOf (es : List Event) : List Nat := es.filterMap fun e => match e with | .evWait us => some us | _ => none

/-- The number of responses in a trace. -/
def rspCount (es : List Event) : Nat := es.countP fun e => match e with | .evRsp _ _ => true | _ => false

/-- A word that is illegal by the clauses of `30_encoding.md` R105, on the bits of the word. -/
def IllegalWord (w : Word) : Prop :=
  w.toNat / 2 ^ 28 ∈ [0x0, 0x5, 0x6, 0x7, 0xC, 0xD, 0xE, 0xF] ∨
  w.toNat / 2 ^ 16 % 2 ^ 12 ≠ 0 ∨
  (w.toNat / 2 ^ 28 ∈ [0x1, 0x2, 0x3] ∧ (w.toNat / 2 ^ 8 % 2 ^ 8 ≠ 0 ∨ w.toNat % 2 ^ 8 ≠ 0)) ∨
  (w.toNat / 2 ^ 28 ∈ [0x4, 0x8, 0x9, 0xA] ∧ w.toNat % 2 ^ 8 ≠ 0)

/-- What a signed coefficient holds after a read of value `v` (`42_calibration_loader.md` R162, R163). -/
def loadedSigned (v : Int) : Int := if 32768 ≤ v then v - 65536 else v

/-- What an unsigned register holds after a read of value `v`: a failed read gives all ones (R162, R163). -/
def loadedUnsigned (ones v : Int) : Int := if v = -1 then ones else v

/-- The registers other than STATUS, which is set to zero. -/
def RegFile.noStatus (x : RegFile) : RegFile := { x with status := 0 }

/-- The calibration coefficients and the identity bytes (R21, R24): what INIT alone writes. -/
def Reg.calibration : Reg → Bool
  | .status => false
  | .temp => false
  | .press => false
  | .ut => false
  | .chipid => true
  | .chipver => true
  | .ac1 => true
  | .ac2 => true
  | .ac3 => true
  | .ac4 => true
  | .ac5 => true
  | .ac6 => true
  | .b1 => true
  | .b2 => true
  | .mb => true
  | .mc => true
  | .md => true

/-- The pressure samples a MEASP records from the draws two to seven (R188, R189). -/
def recordedSamples (s : State) : List Nat :=
  ([0, 1, 2].filter fun i => (drawAt s (2 + 2 * i)).full 3 && (drawAt s (3 + 2 * i)).full 4).map
    fun i => ((drawAt s (3 + 2 * i)).value 3).toNat / 32

/-- The UT a phase T works with, from the draws zero and one (R183). -/
def utAfter (s : State) : Int :=
  if (drawAt s 0).full 3 && (drawAt s 1).full 3 then (drawAt s 1).value 2 else s.x.read .ut

/-- The command lists of R40: which command runs in X0 and X1. -/
def usesX : Instr → Bool
  | .init => false
  | .meast => false
  | .measp => false
  | .get _ => false
  | .rdb _ => true
  | .rdw _ => true
  | .rdt _ => true
  | .wrr _ _ => true

/-- Which command runs in G0 (R40). -/
def usesG : Instr → Bool
  | .init => false
  | .meast => false
  | .measp => false
  | .get _ => true
  | .rdb _ => false
  | .rdw _ => false
  | .rdt _ => false
  | .wrr _ _ => false

/-- The command in progress belongs to the step in progress (R40). -/
def cmdFits (q : Seq) (c : Option Instr) : Bool :=
  match q with
  | .idle => c == none
  | .respond => c == none
  | .x0 => c.any usesX
  | .x1 => c.any usesX
  | .g0 => c.any usesG
  | .i _ => c == some .init
  | .t _ => c == some .meast || c == some .measp
  | .p _ _ => c == some .measp
  | .p9 => c == some .measp

/-- Steps of a measurement: T0 to T3, P(i,j), P9. -/
def Seq.measuring : Seq → Bool
  | .t _ => true
  | .p _ _ => true
  | .p9 => true
  | _ => false

/-- Steps of phase P, which run after the temperature has been written. -/
def Seq.pressing : Seq → Bool
  | .p _ _ => true
  | .p9 => true
  | _ => false

/-- Wait steps: T1 and P(i,1) (R40). -/
def Seq.waiting : Seq → Bool
  | .t n => n == 1
  | .p _ j => j == 1
  | _ => false

/-- How many samples a step of phase P can have recorded so far. -/
def Seq.samplesBound : Seq → Nat
  | .p n _ => n.val
  | .p9 => 3
  | _ => 0

/-- The invariant of the machine: what no step and no event, reset and arbitrary inputs included, ever breaks. -/
structure Inv (s : State) : Prop where
  /-- STATUS bits 15:12 are hardwired zero (R30). -/
  reservedZero : statusReserved s.x.status = 0
  /-- Between commands, and once a command has responded, there is no hidden state (R45, R46). -/
  idleWork : s.seq = .idle ∨ s.seq = .respond → s.work = Work.idle
  /-- The response port is driven in the cycle of the response and in no other (`30_encoding.md` R103). -/
  rspCycle : s.rsp.isSome = (s.seq == .respond)
  /-- The command in progress belongs to the step in progress (R40). -/
  cmdOfSeq : cmdFits s.seq s.work.cmd = true
  /-- With no session open the pins are at their idle levels (R126). -/
  closedQuiet : s.work.phase = .closed → s.spi = Spi.idle ∧ s.env.miso = []
  /-- A session holds the select line low. -/
  openSelected : s.work.phase ≠ .closed → s.spi.csN = false
  /-- A session is open in transaction steps only, so never in IDLE (R125) and never across a wait (R128). -/
  openInTxn : s.work.phase ≠ .closed → frameOf s ≠ none
  /-- The wait timer runs in wait steps only (R262). -/
  timerInWait : s.work.timer ≠ none → s.seq.waiting = true
  /-- Inside a byte fewer than eight bits are done; between bytes none is. -/
  bitBound : (s.work.phase = .fall ∨ s.work.phase = .rise → s.spi.bitCnt < 8) ∧ (s.work.phase = .gap → s.spi.bitCnt = 0)
  /-- The receive buffer holds the bytes counted, no more than the frame asks for (R121, R45 "at most 4 bytes"). -/
  rxBound : s.spi.rxBuf.length = s.spi.byteCnt ∧
    (∀ out, s.work.phase ≠ .closed → frameOf s = some out → s.spi.byteCnt ≤ out.length)
  /-- A byte is in progress only while the frame and the environment have one more (R123, R130). -/
  byteInFrame : (s.work.phase = .fall ∨ s.work.phase = .rise) →
    s.env.miso ≠ [] ∧ ∀ out, frameOf s = some out → s.spi.byteCnt < out.length
  /-- At most three samples of nineteen bits are recorded (R26, R45, R189). -/
  samplesBound : s.seq.pressing = true → s.work.samples.length ≤ s.seq.samplesBound ∧ ∀ v ∈ s.work.samples, v < 2 ^ 19
  /-- A measurement runs only after an INIT (R180). -/
  measuringInitd : s.seq.measuring = true → s.flag .initd = true
  /-- Phase P runs only after a temperature was written (R187). -/
  pressingTvalid : s.seq.pressing = true → s.flag .tvalid = true
  /-- While a MEASP runs, what its start cleared stays clear until its last step (R186). -/
  measpCleared : s.seq.measuring = true → s.work.cmd = some .measp → s.flag .mfail = false ∧ s.nsamp = 0
  /-- A temperature exists only after an INIT (R180, R241). -/
  tvalidInitd : s.flag .tvalid = true → s.flag .initd = true
  /-- A pressure exists only after a temperature (R186). -/
  pvalidTvalid : s.flag .pvalid = true → s.flag .tvalid = true
  /-- MFAIL says that no sample was recorded (R30, R192). -/
  mfailNone : s.flag .mfail = true → s.nsamp = 0

/-- A step from `s` does not stop the machine: a safe run is one of `next` states only (`60_exceptions.md` R253, R256). -/
def Safe (s : State) : Prop := ∃ t, step s = .next t

end Machine
end Sys2Proof
end

