-- ==== Sys2Proof/Certificates/Slice0/Obligations.lean ====
section
/-! DEFINITION. The statements about the model, from the numbered rules of the spec. `drawAt s n` is the `n`-th answer the environment
gives from `s` on, any answer R121 allows; so a statement about it is a statement about every environment. -/

open Sys2Proof Sys2Proof.Machine

/-! ## Encoding and the command port -/

/-- Words written out from the patterns of R101, one of each command, decode to what they stand for. -/
def Obligations.SpecWordsDecode : Prop :=
  decode 0x10000000 = .ok .init ∧ decode 0x20000000 = .ok .meast ∧ decode 0x30000000 = .ok .measp ∧
  decode 0x40001300 = .ok (.get 0x13) ∧ decode 0x8000D000 = .ok (.rdb 0xD0) ∧ decode 0x9000AA00 = .ok (.rdw 0xAA) ∧
  decode 0xA000F600 = .ok (.rdt 0xF6) ∧ decode 0xB000742E = .ok (.wrr 0x74 0x2E)

/-- Every command, with every operand, decodes from its own word. -/
def Obligations.DecodeAfterEncodeIsIdentity : Prop :=
  ∀ i : Instr, decode (encode i) = .ok i

/-- A word has one meaning: a word that decodes is the word of what it decodes to. -/
def Obligations.EncodeAfterDecodeIsIdentity : Prop :=
  ∀ (w : Word) (i : Instr), decode w = .ok i → encode i = w

/-- R102: a word is a command exactly when it fits one of the eight rows, it fits the row of what it decodes to, and the
rows are disjoint. -/
def Obligations.DecoderFollowsMatchAndMask : Prop :=
  (∀ w : Word, (∃ i, decode w = .ok i) ↔ ∃ row ∈ opTable, row.fits w = true) ∧
  (∀ (w : Word) (i : Instr), decode w = .ok i → (opRow i).fits w = true) ∧
  (∀ (w : Word), ∀ r ∈ opTable, ∀ q ∈ opTable, r.fits w = true → q.fits w = true → r = q)

/-- R105: the illegal words, each accepted, answered ILLEGAL with zero, and without any other effect. -/
def Obligations.IllegalWordsChangeNothing : Prop :=
  (∀ w : Word, (∃ e, decode w = .error e) ↔ IllegalWord w) ∧
  ∀ (s : State) (w : Word) (rest : List PortIn), s.seq = .idle → s.host = ⟨false, some w⟩ :: rest → IllegalWord w →
    ∃ t, step s = .next t ∧ t.rsp = some ⟨.illegal, 0⟩ ∧ t.trace = s.trace ++ [.evRsp .illegal 0] ∧ t.x = s.x ∧ t.spi = s.spi ∧
      t.env = s.env ∧ t.seq = .respond ∧ t.host = rest ∧ t.params = s.params

/-- A step of the idle machine with a command offered is that command's meaning, on the state whose port cycle is used up and whose
response port is low; it ends in the cycle of the response. That one step runs the whole command is the model's choice (log 1), and so
is the response's cycle as a value of `seq` (log 23). -/
def Obligations.StepRunsDecodedCommand : Prop :=
  ∀ (s : State) (w : Word) (rest : List PortIn) (i : Instr),
    s.seq = .idle → s.host = ⟨false, some w⟩ :: rest → decode w = .ok i →
    step s = exec i { s with host := rest, rsp := none } ∧
    ∃ t, step s = .next t ∧ t.seq = .respond ∧ t.rsp.isSome = true ∧ t.host = rest

/-- The idle machine with nothing offered only lowers its response port; this is so past the end of the list of port cycles
too (the model's reading of an exhausted list, log 9). -/
def Obligations.IdleWithoutCommandKeepsState : Prop :=
  ∀ s : State, s.seq = .idle → (s.host = [] ∨ ∃ rest, s.host = ⟨false, none⟩ :: rest) →
    step s = .next { s with host := s.host.tail, rsp := none }

/-- While the block is busy an offered word is not taken and has no effect (R104). -/
def Obligations.BusyIgnoresOfferedWord : Prop :=
  ∀ (s : State) (w : Word), s.cmdReady = false →
    tick ⟨false, some w⟩ s = tick ⟨false, none⟩ s ∧
    ∀ rest, s.host = ⟨false, some w⟩ :: rest →
      step s = step { s with host := ⟨false, none⟩ :: rest }

/-- R104 on the ports: `cmd_ready` is 1 exactly in IDLE; a word offered while it is 0 is not taken; a word offered while it is 1,
illegal or refused ones included, is answered by exactly one response, and `cmd_ready` is 0 from the next cycle until the cycle after
that response. -/
def Obligations.ReadyIsLowUntilAfterTheResponse : Prop :=
  (∀ s : State, s.cmdReady = true ↔ s.seq = .idle) ∧
  (∀ (s : State) (w : Word), s.cmdReady = false → tick ⟨false, some w⟩ s = tick ⟨false, none⟩ s) ∧
  ∀ (s : State) (w : Word), Inv s → s.cmdReady = true → ∃ n c v evs,
    let u := fun m => seqTicks m (tick ⟨false, some w⟩ s)
    (∀ m, m ≤ n → (u m).cmdReady = false) ∧ (∀ m, m < n → (u m).rsp = none) ∧ (u n).rsp = some ⟨c, v⟩ ∧
    (u n).trace = s.trace ++ evs ++ [.evRsp c v] ∧ rspCount evs = 0 ∧
    (u (n + 1)).cmdReady = true ∧ (u (n + 1)).rsp = none ∧ (u (n + 1)).trace = (u n).trace

/-- The cycle of a response lasts one step: whatever is offered, `rsp_valid` falls and the block is in IDLE (R103, R104). -/
def Obligations.ResponseLastsOneCycle : Prop :=
  ∀ (p : PortIn) (s : State), p.rst = false → s.seq = .respond →
    tick p s = { s with seq := .idle, rsp := none } ∧
    ∀ rest, s.host = p :: rest → step s = .next { s with seq := .idle, rsp := none, host := rest }

/-- R111: the words of the pseudo-instructions. -/
def Obligations.PseudoInstructionsAreGets : Prop :=
  encode Pseudo.getTemp.expand = 0x40000100 ∧ encode Pseudo.getPress.expand = 0x40000200 ∧
  encode Pseudo.getId.expand = 0x40000300 ∧ encode Pseudo.getVer.expand = 0x40000400 ∧
  encode Pseudo.getStatus.expand = 0x40000000

/-! ## Reset -/

/-- R50: what reset leaves. The registers without a value are those GET answers NOVALUE for. -/
def Obligations.ResetValues : Prop :=
  State.reset.x.status = 0x0000 ∧ State.reset.x.ut = 0x6720 ∧ State.reset.seq = .idle ∧ State.reset.rsp = none ∧
  State.reset.spi.csN = true ∧ State.reset.spi.sclk = true ∧
  ∀ r : Reg, State.reset.hasValue r = (r == .status || r == .ut)

/-- R280, R281: in every cycle with `rst` the block is in the reset state, wherever it stood: no response, the session ended, the
timer dropped. -/
def Obligations.ResetAbandonsCommand : Prop :=
  ∀ (s : State) (c : Option Word), ∃ t, t = tick ⟨true, c⟩ s ∧
    (∀ rest, s.host = ⟨true, c⟩ :: rest → step s = .next { t with host := rest }) ∧
    t.x.status = 0x0000 ∧ t.x.ut = 0x6720 ∧ (∀ r : Reg, t.hasValue r = (r == .status || r == .ut)) ∧ t.seq = .idle ∧ t.rsp = none ∧
    rspCount t.trace = rspCount s.trace ∧ t.spi.csN = true ∧ t.spi.sclk = true ∧ t.work.timer = none

/-- Reset as one equation: the block's own fields at `State.reset`, whose unspecified values are the model's choice (log 2 and 3);
the trace, the parameters and the inputs to come are not the block's and stay (the model's choice, log 13). -/
def Obligations.ResetFromEveryState : Prop :=
  (∀ (s : State) (c : Option Word),
    tick ⟨true, c⟩ s = { State.reset with params := s.params, env := { s.env with miso := [] }, host := s.host, trace := s.trace }) ∧
  ∀ (s : State) (c : Option Word) (rest : List PortIn), s.host = ⟨true, c⟩ :: rest →
    step s = .next { State.reset with params := s.params, env := { s.env with miso := [] }, host := rest, trace := s.trace }

/-! ## Register transactions -/

/-- R142: RDB, its answer, its bus activity, and what it leaves alone. -/
def Obligations.RdbReadsOneByte : Prop :=
  ∀ (a : Byte) (s : State),
    let d := drawAt s 0
    let c : Code := if d.full 2 then .ok else .xferFail
    let r : Word := if d.full 2 then (0 : BitVec 24) ++ (d.reply 2).getD 1 0 else 0xFFFFFFFF
    ∃ t, exec (.rdb a) s = .next t ∧ t.rsp = some ⟨c, r⟩ ∧ t.trace = s.trace ++ txnEvents [a, 0] d ++ [.evRsp c r] ∧
      t.x = { s.x with status := txnStatus 2 d s.x.status } ∧ t.env = envAfter 1 s.env ∧ t.seq = .respond ∧
      t.params = s.params ∧ t.host = s.host ∧ (s.spi.csN = true → t.spi.csN = true) ∧ (s.spi.sclk = true → t.spi.sclk = true)

/-- R143: RDW, big-endian and without sign extension. -/
def Obligations.RdwReadsTwoBytes : Prop :=
  ∀ (a : Byte) (s : State),
    let d := drawAt s 0
    let c : Code := if d.full 3 then .ok else .xferFail
    let r : Word := if d.full 3 then (0 : BitVec 16) ++ (d.reply 3).getD 1 0 ++ (d.reply 3).getD 2 0 else 0xFFFFFFFF
    ∃ t, exec (.rdw a) s = .next t ∧ t.rsp = some ⟨c, r⟩ ∧ t.trace = s.trace ++ txnEvents [a, 0, 0] d ++ [.evRsp c r] ∧
      t.x = { s.x with status := txnStatus 3 d s.x.status } ∧ t.env = envAfter 1 s.env ∧ t.seq = .respond ∧
      t.params = s.params ∧ t.host = s.host ∧ (s.spi.csN = true → t.spi.csN = true) ∧ (s.spi.sclk = true → t.spi.sclk = true)

/-- R144: RDT, the 24-bit value unshifted. -/
def Obligations.RdtReadsThreeBytes : Prop :=
  ∀ (a : Byte) (s : State),
    let d := drawAt s 0
    let c : Code := if d.full 4 then .ok else .xferFail
    let r : Word :=
      if d.full 4 then (0 : BitVec 8) ++ (d.reply 4).getD 1 0 ++ (d.reply 4).getD 2 0 ++ (d.reply 4).getD 3 0 else 0xFFFFFFFF
    ∃ t, exec (.rdt a) s = .next t ∧ t.rsp = some ⟨c, r⟩ ∧ t.trace = s.trace ++ txnEvents [a, 0, 0, 0] d ++ [.evRsp c r] ∧
      t.x = { s.x with status := txnStatus 4 d s.x.status } ∧ t.env = envAfter 1 s.env ∧ t.seq = .respond ∧
      t.params = s.params ∧ t.host = s.host ∧ (s.spi.csN = true → t.spi.csN = true) ∧ (s.spi.sclk = true → t.spi.sclk = true)

/-- R146: WRR, one write frame with its pad byte; nothing received is used. -/
def Obligations.WrrWritesOneByte : Prop :=
  ∀ (a v : Byte) (s : State),
    let d := drawAt s 0
    let c : Code := if d.full 3 then .ok else .xferFail
    let r : Word := if d.full 3 then 0 else 0xFFFFFFFF
    ∃ t, exec (.wrr a v) s = .next t ∧ t.rsp = some ⟨c, r⟩ ∧ t.trace = s.trace ++ txnEvents [a, v, 0] d ++ [.evRsp c r] ∧
      t.x = { s.x with status := txnStatus 3 d s.x.status } ∧ t.env = envAfter 1 s.env ∧ t.seq = .respond ∧
      t.params = s.params ∧ t.host = s.host ∧ (s.spi.csN = true → t.spi.csN = true) ∧ (s.spi.sclk = true → t.spi.sclk = true)

/-- The edges of one byte (most significant bit first and mode 3 are the spec's general knowledge, log 12): of the eight
falling edges the `j`-th drives bit `7 - j` of the byte sent, and after the eighth rising edge the shift register holds the byte
whose bits came in, most significant first. -/
def Obligations.BytesGoMostSignificantBitFirst : Prop :=
  ∀ (o i : Byte) (sp : Spi),
    (∀ j : Nat, j < 8 →
      (((sp.load o).shiftBits ((bitsMsbFirst i).take j)).fall).mosi = some (o.getLsbD (7 - j)) ∧
      (((sp.load o).shiftBits ((bitsMsbFirst i).take j)).fall).sclk = false) ∧
    (sp.byte o i).rxBuf = sp.rxBuf ++ [i] ∧ (sp.byte o i).byteCnt = sp.byteCnt + 1 ∧ (sp.byte o i).sclk = true ∧
    (sp.byte o i).csN = sp.csN

/-! ## GET -/

/-- R240: GET answers BADREG, NOVALUE or the 32-bit view, and changes nothing else. -/
def Obligations.GetAnswersAndChangesNothing : Prop :=
  ∀ (r : Byte) (s : State), ∃ t c v, exec (.get r) s = .next t ∧ t.rsp = some ⟨c, v⟩ ∧ t.trace = s.trace ++ [.evRsp c v] ∧ t.x = s.x ∧
    t.spi = s.spi ∧ t.env = s.env ∧ t.seq = .respond ∧ t.params = s.params ∧ t.host = s.host ∧
    (assignedNumber r = false → c = .badReg ∧ v = 0) ∧
    ∀ g : Reg, r = g.num → if s.hasValue g then c = .ok ∧ v = s.x.view32 g else c = .noValue ∧ v = 0

/-- R241: which register has a value when. -/
def Obligations.ValueGuards : Prop :=
  ∀ s : State, s.hasValue .status = true ∧ s.hasValue .ut = true ∧ s.hasValue .temp = s.flag .tvalid ∧
    s.hasValue .press = s.flag .pvalid ∧ ∀ r : Reg, r.calibration = true → s.hasValue r = s.flag .initd

/-- R242: the 32-bit view of a register, read as a two's-complement number, is the integer the register holds. -/
def Obligations.ViewIsTheIntegerHeld : Prop :=
  ∀ (x : RegFile) (r : Reg), (x.view32 r).toInt = x.read r

/-! ## INIT -/

/-- R160, R162, R163: every register INIT loads, from whatever the environment answers, failed reads included. -/
def Obligations.InitLoadsCalibration : Prop :=
  ∀ s : State, ∃ t, exec .init s = .next t ∧
    (∀ q ∈ [(0, Reg.ac1), (1, .ac2), (2, .ac3), (6, .b1), (7, .b2), (8, .mb), (9, .mc), (10, .md)],
      t.x.read q.2 = loadedSigned ((drawAt s q.1).value 2)) ∧
    (∀ q ∈ [(3, Reg.ac4), (4, .ac5), (5, .ac6)], t.x.read q.2 = loadedUnsigned 65535 ((drawAt s q.1).value 2)) ∧
    t.x.read .chipid = loadedUnsigned 255 ((drawAt s 11).value 1) ∧
    t.x.read .chipver = loadedUnsigned 255 ((drawAt s 12).value 1)

/-- R164, R165, R166 and the flags of R160: IDWARN (a failed ID read sets it too), CALERR, INITD and the two sticky transport flags
as the answers say; every other field, NSAMP, the hardwired bits, UT and the readings as they were. -/
def Obligations.InitSetsItsFlags : Prop :=
  ∀ s : State, ∃ t, exec .init s = .next t ∧
    t.flag .initd = true ∧
    t.flag .idwarn = (t.x.chipid != 0x55) ∧ ((drawAt s 11).full 2 = false → t.x.chipid = 0xFF ∧ t.flag .idwarn = true) ∧
    (∃ v, t.rsp = some ⟨.ok, v⟩) ∧
    t.flag .calerr = ((List.range 13).any fun k => !(drawAt s k).full (if k < 11 then 3 else 2)) ∧
    t.flag .busunav = (s.flag .busunav || (List.range 13).any fun k => !(drawAt s k).avail) ∧
    t.flag .xfererr = (s.flag .xfererr ||
      (List.range 13).any fun k => (drawAt s k).avail && !(drawAt s k).full (if k < 11 then 3 else 2)) ∧
    (∀ f ∈ [StatusField.tvalid, .pvalid, .utstale, .mfail, .arith], t.flag f = s.flag f) ∧
    t.nsamp = s.nsamp ∧ statusReserved t.x.status = statusReserved s.x.status ∧
    t.x.ut = s.x.ut ∧ t.x.temp = s.x.temp ∧ t.x.press = s.x.press ∧ ∀ r : Reg, r.calibration = true → t.hasValue r = true

/-- R160, R161: the thirteen transactions of INIT, each frame written out, in their order, and its answer. -/
def Obligations.InitIssuesThirteenReads : Prop :=
  ∀ s : State, ∃ t, exec .init s = .next t ∧
    (let p := s.params
     t.trace = s.trace ++
       (txnEvents [p.aAc1, 0, 0] (drawAt s 0) ++ txnEvents [p.aAc2, 0, 0] (drawAt s 1) ++ txnEvents [p.aAc3, 0, 0] (drawAt s 2) ++
        txnEvents [p.aAc4, 0, 0] (drawAt s 3) ++ txnEvents [p.aAc5, 0, 0] (drawAt s 4) ++ txnEvents [p.aAc6, 0, 0] (drawAt s 5) ++
        txnEvents [p.aB1, 0, 0] (drawAt s 6) ++ txnEvents [p.aB2, 0, 0] (drawAt s 7) ++ txnEvents [p.aMb, 0, 0] (drawAt s 8) ++
        txnEvents [p.aMc, 0, 0] (drawAt s 9) ++ txnEvents [p.aMd, 0, 0] (drawAt s 10) ++ txnEvents [p.aId, 0] (drawAt s 11) ++
        txnEvents [p.aVer, 0] (drawAt s 12) ++ [.evRsp .ok (t.x.status.setWidth 32)])) ∧
    t.rsp = some ⟨.ok, t.x.status.setWidth 32⟩ ∧ t.env = envAfter 13 s.env

/-- What INIT leaves alone beside the fields of `InitSetsItsFlags`: UT, the readings, the parameters, the inputs. -/
def Obligations.InitFrame : Prop :=
  ∀ s : State, ∃ t, exec .init s = .next t ∧
    t.x.ut = s.x.ut ∧ t.x.temp = s.x.temp ∧ t.x.press = s.x.press ∧ t.params = s.params ∧ t.host = s.host ∧ t.seq = .respond ∧
    (s.spi.csN = true → t.spi.csN = true) ∧ (s.spi.sclk = true → t.spi.sclk = true)

/-- R167: after a good read of two data bytes, GET of the coefficient gives the two bytes back in its low 16 bits. -/
def Obligations.CoefficientsRoundTrip : Prop :=
  ∀ (s : State) (k : Nat) (r : Reg) (g d0 d1 : Byte),
    [Reg.ac1, .ac2, .ac3, .ac4, .ac5, .ac6, .b1, .b2, .mb, .mc, .md][k]? = some r → (drawAt s k).reply 3 = [g, d0, d1] →
    ∃ t u v, exec .init s = .next t ∧ exec (.get r.num) t = .next u ∧ u.rsp = some ⟨.ok, v⟩ ∧
      v.extractLsb' 0 16 = d0 ++ d1

/-! ## MEAST and MEASP -/

/-- R180: measurement commands before the first INIT. -/
def Obligations.MeasurementNeedsInit : Prop :=
  ∀ (i : Instr) (s : State), i = .meast ∨ i = .measp → s.flag .initd = false →
    ∃ t, exec i s = .next t ∧ t.rsp = some ⟨.notInit, 0⟩ ∧ t.trace = s.trace ++ [.evRsp .notInit 0] ∧ t.x = s.x ∧ t.spi = s.spi ∧
      t.env = s.env ∧ t.seq = .respond ∧ t.params = s.params ∧ t.host = s.host

/-- R181 to R183, R185: MEAST after INIT: UT, TEMP, the flags it writes, its answer. -/
def Obligations.MeastMeasuresTemperature : Prop :=
  ∀ s : State, s.flag .initd = true → ∃ t, exec .meast s = .next t ∧
    t.x.read .ut = utAfter s ∧
    t.flag .utstale = !((drawAt s 0).full 3 && (drawAt s 1).full 3) ∧
    (match calcT (utAfter s) (s.x.read .ac5) (s.x.read .ac6) (s.x.read .mc) (s.x.read .md) with
     | none => t.x.temp = s.x.temp ∧ t.flag .tvalid = s.flag .tvalid ∧ t.flag .arith = true ∧
         t.rsp = some ⟨.arith, t.x.status.setWidth 32⟩
     | some (_, T) => t.x.read .temp = T ∧ t.flag .tvalid = true ∧ t.flag .arith = false ∧
         t.rsp = some ⟨.ok, t.x.status.setWidth 32⟩)

/-- R195 and R182: the bus activity of MEAST, in order, whatever the environment answers. -/
def Obligations.MeastTrace : Prop :=
  ∀ s : State, s.flag .initd = true → ∃ t c, exec .meast s = .next t ∧ (c = Code.ok ∨ c = Code.arith) ∧
    t.trace = s.trace ++ (txnEvents [s.params.aCtrlMeasW, s.params.tempCmd, 0] (drawAt s 0) ++ [.evWait 4500] ++
      txnEvents [s.params.aDataR, 0, 0] (drawAt s 1) ++ [.evRsp c (t.x.status.setWidth 32)]) ∧
    t.env = envAfter 2 s.env

/-- What MEAST leaves alone: every register but STATUS, UT and TEMP, every field but UTSTALE, ARITH, TVALID and the two
transport flags (set only by a failed transaction), NSAMP, the hardwired bits, parameters, inputs. -/
def Obligations.MeastFrame : Prop :=
  ∀ s : State, s.flag .initd = true → ∃ t, exec .meast s = .next t ∧
    (∀ r : Reg, r ≠ .status → r ≠ .ut → r ≠ .temp → t.x.read r = s.x.read r) ∧
    (∀ f ∈ [StatusField.initd, .idwarn, .calerr, .pvalid, .mfail], t.flag f = s.flag f) ∧
    t.flag .busunav = (s.flag .busunav || !(drawAt s 0).avail || !(drawAt s 1).avail) ∧
    t.flag .xfererr = (s.flag .xfererr || ((drawAt s 0).avail && !(drawAt s 0).full 3) ||
      ((drawAt s 1).avail && !(drawAt s 1).full 3)) ∧
    t.nsamp = s.nsamp ∧ statusReserved t.x.status = statusReserved s.x.status ∧ t.params = s.params ∧ t.host = s.host ∧
    t.seq = .respond ∧ (s.spi.csN = true → t.spi.csN = true) ∧ (s.spi.sclk = true → t.spi.sclk = true)

/-- R186 to R193: MEASP after INIT: the temperature, the number of samples, the pressure from their exact mean and the `B5` of the
same command, the flags it writes, its answer. -/
def Obligations.MeaspMeasuresPressure : Prop :=
  ∀ s : State, s.flag .initd = true → ∃ t, exec .measp s = .next t ∧
    t.x.read .ut = utAfter s ∧
    t.flag .utstale = !((drawAt s 0).full 3 && (drawAt s 1).full 3) ∧
    (match calcT (utAfter s) (s.x.read .ac5) (s.x.read .ac6) (s.x.read .mc) (s.x.read .md) with
     | none => t.x.temp = s.x.temp ∧ t.x.press = s.x.press ∧ t.flag .tvalid = s.flag .tvalid ∧ t.flag .pvalid = s.flag .pvalid ∧
         t.flag .arith = true ∧ t.flag .mfail = false ∧ t.nsamp = 0 ∧ t.rsp = some ⟨.arith, t.x.status.setWidth 32⟩
     | some (B5, T) =>
       t.x.read .temp = T ∧ t.flag .tvalid = true ∧ t.nsamp = (recordedSamples s).length ∧
       if (recordedSamples s).length = 0 then
         t.x.press = s.x.press ∧ t.flag .pvalid = s.flag .pvalid ∧ t.flag .mfail = true ∧ t.flag .arith = false ∧
         t.rsp = some ⟨.measFail, t.x.status.setWidth 32⟩
       else
         t.flag .mfail = false ∧
         match calcP B5 (((recordedSamples s).sum : Rat) / (recordedSamples s).length) (s.x.read .ac1) (s.x.read .ac2)
             (s.x.read .ac3) (s.x.read .ac4) (s.x.read .b1) (s.x.read .b2) with
         | none => t.x.press = s.x.press ∧ t.flag .pvalid = s.flag .pvalid ∧ t.flag .arith = true ∧
             t.rsp = some ⟨.arith, t.x.status.setWidth 32⟩
         | some P => t.x.read .press = P ∧ t.flag .pvalid = true ∧ t.flag .arith = false ∧
             t.rsp = some ⟨.ok, t.x.status.setWidth 32⟩)

/-- R184, R186, R187, R195: the bus activity of MEASP: phase T, and without an arithmetic fault the three samples, whatever failed. -/
def Obligations.MeaspTrace : Prop :=
  ∀ s : State, s.flag .initd = true → ∃ t c, exec .measp s = .next t ∧
    (let sample := fun k : Nat =>
       txnEvents [s.params.aCtrlMeasW, pressByte s.params, 0] (drawAt s (2 + 2 * k)) ++ [.evWait 25500] ++
       txnEvents [s.params.aDataR, 0, 0, 0] (drawAt s (3 + 2 * k))
     let fault := (calcT (utAfter s) (s.x.read .ac5) (s.x.read .ac6) (s.x.read .mc) (s.x.read .md)).isNone
     t.trace = s.trace ++ (txnEvents [s.params.aCtrlMeasW, s.params.tempCmd, 0] (drawAt s 0) ++ [.evWait 4500] ++
       txnEvents [s.params.aDataR, 0, 0] (drawAt s 1) ++ (if fault then [] else sample 0 ++ sample 1 ++ sample 2) ++
       [.evRsp c (t.x.status.setWidth 32)]) ∧
     t.env = envAfter (if fault then 2 else 8) s.env)

/-- What MEASP leaves alone: every register but STATUS, UT, TEMP and PRESS, the fields INITD, IDWARN, CALERR, the hardwired bits,
parameters, inputs; the two transport flags are set exactly by its own transactions (draws 3, 5, 7 are the four-byte reads). -/
def Obligations.MeaspFrame : Prop :=
  ∀ s : State, s.flag .initd = true → ∃ t, exec .measp s = .next t ∧
    (∀ r : Reg, r ≠ .status → r ≠ .ut → r ≠ .temp → r ≠ .press → t.x.read r = s.x.read r) ∧
    (∀ f ∈ [StatusField.initd, .idwarn, .calerr], t.flag f = s.flag f) ∧
    (let taken := if (calcT (utAfter s) (s.x.read .ac5) (s.x.read .ac6) (s.x.read .mc) (s.x.read .md)).isNone then 2 else 8
     t.flag .busunav = (s.flag .busunav || (List.range taken).any fun k => !(drawAt s k).avail) ∧
     t.flag .xfererr = (s.flag .xfererr || (List.range taken).any fun k =>
       (drawAt s k).avail && !(drawAt s k).full (if k = 3 ∨ k = 5 ∨ k = 7 then 4 else 3))) ∧
    statusReserved t.x.status = statusReserved s.x.status ∧ t.params = s.params ∧ t.host = s.host ∧
    t.seq = .respond ∧ (s.spi.csN = true → t.spi.csN = true) ∧ (s.spi.sclk = true → t.spi.sclk = true)

/-- R192: three failed samples: MEASFAIL, MFAIL, the old pressure kept, the new temperature written. -/
def Obligations.ThreeFailuresRaiseMeasurementFailed : Prop :=
  ∀ (s : State) (b5 : Rat) (T : Int), s.flag .initd = true →
    calcT (utAfter s) (s.x.read .ac5) (s.x.read .ac6) (s.x.read .mc) (s.x.read .md) = some (b5, T) →
    (∀ k ∈ [0, 1, 2], (drawAt s (2 + 2 * k)).full 3 = false ∨ (drawAt s (3 + 2 * k)).full 4 = false) →
    ∃ t, exec .measp s = .next t ∧ t.rsp = some ⟨.measFail, t.x.status.setWidth 32⟩ ∧ t.flag .mfail = true ∧
      t.x.press = s.x.press ∧ t.flag .pvalid = s.flag .pvalid ∧ t.x.read .temp = T ∧ t.nsamp = 0

/-- R9, R194: the byte of the pressure command. -/
def Obligations.PressureCommandByte : Prop :=
  ∀ p : Params, (p.ossInCmd = true → (pressByte p).toNat = (p.pressCmd.toNat ||| (3 <<< 6)) % 256) ∧
    (p.ossInCmd = false → pressByte p = p.pressCmd)

/-! ## Compensation -/

/-- R211: `CALC_T` on integers only, with `N1 = (UT - AC6) × AC5` and `D1 = N1 + MD × 2^15`: one integer division rounded toward
minus infinity, numerator and denominator negated first when `D1 < 0`. -/
def Obligations.CalcTOnIntegers : Prop :=
  ∀ UT AC5 AC6 MC MD : Int,
    let N1 := (UT - AC6) * AC5
    let D1 := N1 + MD * 2 ^ 15
    let num := N1 * D1 + MC * 2 ^ 41 + 2 ^ 18 * D1
    let T := if 0 < D1 then num / (2 ^ 19 * D1) else (-num) / (-(2 ^ 19 * D1))
    calcT UT AC5 AC6 MC MD =
      if D1 = 0 ∨ T < -2 ^ 31 ∨ T > 2 ^ 31 - 1 then none
      else some (((N1 * D1 + MC * 2 ^ 41 : Int) : Rat) / ((2 ^ 15 * D1 : Int) : Rat), T)

/-- R210, R214: `T` counts whole tenths, `B5 / 16` to the nearest, ties upward, for either sign; `B5` is unrounded: it solves the
exact equation `(X1 + MD) × (B5 - X1) = MC × 2^11`; there is no answer exactly when the divisor is zero or such a `T` does not fit. -/
def Obligations.TemperatureIsRoundedOnce : Prop :=
  ∀ (UT AC5 AC6 MC MD : Int),
    let X1 : Rat := ((UT : Rat) - AC6) * AC5 / 2 ^ 15
    let solves := fun (b5 : Rat) (T : Int) => X1 + MD ≠ 0 ∧ (X1 + MD) * (b5 - X1) = (MC : Rat) * 2 ^ 11 ∧
      16 * (T : Rat) - 8 ≤ b5 ∧ b5 < 16 * (T : Rat) + 8
    (∀ (b5 : Rat) (T : Int), calcT UT AC5 AC6 MC MD = some (b5, T) ↔ solves b5 T ∧ -2 ^ 31 ≤ T ∧ T ≤ 2 ^ 31 - 1) ∧
    (calcT UT AC5 AC6 MC MD = none ↔
      X1 + MD = 0 ∨ ∃ (b5 : Rat) (T : Int), solves b5 T ∧ (T < -2 ^ 31 ∨ T > 2 ^ 31 - 1))

/-- R215: the magnitudes inside `CALC_T` for arguments in the domains of R201: of the terms of the integer form, of the `B5` and `T`
`CALC_T` answers, and of the `T` it turns away because it does not fit its register. -/
def Obligations.CalcTMagnitudes : Prop :=
  ∀ UT AC5 AC6 MC MD : Int, 0 ≤ UT ∧ UT ≤ 65535 → 0 ≤ AC5 ∧ AC5 ≤ 65535 → 0 ≤ AC6 ∧ AC6 ≤ 65535 →
    -32768 ≤ MC ∧ MC ≤ 32767 → -32768 ≤ MD ∧ MD ≤ 32767 →
    let N1 : Int := (UT - AC6) * AC5
    let D1 : Int := N1 + MD * 2 ^ 15
    let num : Int := N1 * D1 + MC * 2 ^ 41 + 2 ^ 18 * D1
    let B5 : Rat := ((N1 * D1 + MC * 2 ^ 41 : Int) : Rat) / ((2 ^ 15 * D1 : Int) : Rat)
    |N1| < 2 ^ 32 ∧ |D1| < 2 ^ 33 ∧ |N1 * D1| < 2 ^ 65 ∧ |MC * 2 ^ 41| ≤ 2 ^ 56 ∧ |num| < 2 ^ 66 ∧ |2 ^ 19 * D1| < 2 ^ 52 ∧
    (∀ (b5 : Rat) (T : Int), calcT UT AC5 AC6 MC MD = some (b5, T) →
      D1 ≠ 0 ∧ b5 = B5 ∧ |b5| < 2 ^ 17 + 2 ^ 41 ∧ T = Int.floor ((num : Rat) / ((2 ^ 19 * D1 : Int) : Rat)) ∧ |T| < 2 ^ 38) ∧
    (calcT UT AC5 AC6 MC MD = none → D1 = 0 ∨
      |B5| < 2 ^ 17 + 2 ^ 41 ∧ temperatureOf B5 = Int.floor ((num : Rat) / ((2 ^ 19 * D1 : Int) : Rat)) ∧
      2 ^ 31 ≤ |temperatureOf B5| ∧ |temperatureOf B5| < 2 ^ 38)

/-- R220, R221: `CALC_P` line by line with the power-of-two divisions regrouped, and R226: when it faults. -/
def Obligations.CalcPOfTheFormulas : Prop :=
  ∀ (B5 UP : Rat) (AC1 AC2 AC3 AC4 B1 B2 : Int),
    let B6 : Rat := B5 - 4000
    let X3a : Rat := (B2 : Rat) * B6 ^ 2 / 2 ^ 23 + (AC2 : Rat) * B6 / 2 ^ 11
    let B3 : Rat := 2 * (4 * (AC1 : Rat) + X3a) + 1 / 2
    let X3b : Rat := ((AC3 : Rat) * B6 / 2 ^ 13 + (B1 : Rat) * B6 ^ 2 / 2 ^ 28 + 2) / 4
    let p : Rat := 12500 * (UP - B3) * 2 ^ 15 / ((AC4 : Rat) * (X3b + 32768))
    let pressure : Rat := p + (3038 * p ^ 2 / 2 ^ 32 - 7357 * p / 2 ^ 16 + 3791) / 16
    calcP B5 UP AC1 AC2 AC3 AC4 B1 B2 =
      if (AC4 = 0 ∨ X3b = -32768) ∨ Int.floor pressure < -2 ^ 31 ∨ Int.floor pressure > 2 ^ 31 - 1 then none
      else some (Int.floor pressure)

/-- R213, R226: the instances of the four faults the spec names, and the worked examples of R210 and R220. -/
def Obligations.CompensationInstances : Prop :=
  calcT 0 32768 1 (-8711) 1 = none ∧ calcT 1 1 0 (-32768) 0 = none ∧
  calcT 27898 32757 23153 (-8711) 2868 = some (19610686360963913 / 8172686180352, 150) ∧
  calcP (19610686360963913 / 8172686180352) 190744 408 (-72) (-14383) 32741 6190 4 = some 69961 ∧
  calcP (19610686360963913 / 8172686180352) 190744 408 (-72) (-14383) 0 6190 4 = none ∧
  calcP (19610686360963913 / 8172686180352) 190744 408 (-72) (-14383) 1 6190 4 = none

/-- R189: the raw sample: five low bits dropped, nineteen bits left. -/
def Obligations.RawSampleIsNineteenBits : Prop :=
  ∀ d : Draw, d.full 4 = true →
    (rawSample (d.value 3) : Int) = d.value 3 / 32 ∧ rawSample (d.value 3) < 2 ^ 19 ∧
    d.value 3 = ((d.reply 4).getD 1 0).toNat * 65536 + ((d.reply 4).getD 2 0).toNat * 256 + ((d.reply 4).getD 3 0).toNat

/-- R262: the wait timer's count is the least number of `clk` cycles that lasts at least `us` microseconds, and a wait step, T1 or
P(`i`,1), is not left before that many counts: its first event is `EvWait(us)` and loads the timer, each further event takes one off,
nothing else changes, and only at zero the step that follows is entered. (Events stand for cycles here, log 15.) -/
def Obligations.WaitTimerIsLeastCover : Prop :=
  (∀ (p : Params) (us : Nat), us * p.clkHz ≤ waitCycles p us * 10 ^ 6 ∧ waitCycles p us * 10 ^ 6 < us * p.clkHz + 10 ^ 6) ∧
  ∀ (s : State) (us : Nat) (q : Seq), s.work.timer = none →
    (s.seq = .t 1 ∧ us = 4500 ∧ q = .t 2 ∨ ∃ i, s.seq = .p i 1 ∧ us = 25500 ∧ q = .p i 2) →
    (∀ k, k ≤ waitCycles s.params us → seqTicks (k + 1) s =
      { s with trace := s.trace ++ [.evWait us], work := { s.work with timer := some (waitCycles s.params us - k) } }) ∧
    seqTicks (waitCycles s.params us + 2) s = { s with trace := s.trace ++ [.evWait us], seq := q }

/-! ## Whole-machine rules -/

/-- Every accepted command ends: one response, after whole sessions and waits only, and the block is ready in the next cycle. -/
def Obligations.EveryCommandEndsInOneResponse : Prop :=
  ∀ (i : Instr) (s : State), ∃ t evs c v, exec i s = .next t ∧ t.trace = s.trace ++ evs ++ [.evRsp c v] ∧
    t.rsp = some ⟨c, v⟩ ∧ sessionsShape evs = true ∧ rspCount evs = 0 ∧ t.cmdReady = false ∧
    (seqTick t).cmdReady = true ∧ (seqTick t).rsp = none

/-- R251: the codes, by their numbers, that each command can return. -/
def Obligations.ResponseCodesPerCommand : Prop :=
  ∀ (i : Instr) (s : State), ∃ t c v, exec i s = .next t ∧ t.rsp = some ⟨c, v⟩ ∧
    match i with
    | .init => c.bits = 0x0
    | .meast => c.bits = 0x0 ∨ c.bits = 0x2 ∨ c.bits = 0x6
    | .measp => c.bits = 0x0 ∨ c.bits = 0x1 ∨ c.bits = 0x2 ∨ c.bits = 0x6
    | .get _ => c.bits = 0x0 ∨ c.bits = 0x3 ∨ c.bits = 0x5
    | .rdb _ => c.bits = 0x0 ∨ c.bits = 0x7
    | .rdw _ => c.bits = 0x0 ∨ c.bits = 0x7
    | .rdt _ => c.bits = 0x0 ∨ c.bits = 0x7
    | .wrr _ _ => c.bits = 0x0 ∨ c.bits = 0x7

/-- R195: transactions and waits of each command. -/
def Obligations.BusActivityPerCommand : Prop :=
  ∀ (i : Instr) (s t : State) (evs : List Event), exec i s = .next t → t.trace = s.trace ++ evs →
    match i with
    | .init => openCount evs = 13 ∧ waitsOf evs = []
    | .meast => if s.flag .initd then openCount evs = 2 ∧ waitsOf evs = [4500] else openCount evs = 0 ∧ waitsOf evs = []
    | .measp =>
      if s.flag .initd then
        (openCount evs = 8 ∧ waitsOf evs = [4500, 25500, 25500, 25500]) ∨
        (openCount evs = 2 ∧ waitsOf evs = [4500] ∧ ∃ v, t.rsp = some ⟨.arith, v⟩)
      else openCount evs = 0 ∧ waitsOf evs = []
    | .get _ => openCount evs = 0 ∧ waitsOf evs = []
    | .rdb _ => openCount evs = 1 ∧ waitsOf evs = []
    | .rdw _ => openCount evs = 1 ∧ waitsOf evs = []
    | .rdt _ => openCount evs = 1 ∧ waitsOf evs = []
    | .wrr _ _ => openCount evs = 1 ∧ waitsOf evs = []

/-- No step stops the machine: it has no fault and no refusal. -/
def Obligations.NoStepStops : Prop := ∀ s : State, Safe s

/-- R22, R24: only INIT writes the coefficients and the identity bytes. -/
def Obligations.OnlyInitWritesCalibration : Prop :=
  ∀ (i : Instr) (s t : State) (r : Reg), i ≠ .init → exec i s = .next t → r.calibration = true → t.x.read r = s.x.read r

/-- R25, R36: which commands write UT, TEMP and PRESS. -/
def Obligations.OnlyMeasurementsWriteReadings : Prop :=
  ∀ (i : Instr) (s t : State), exec i s = .next t →
    (i ≠ .meast → i ≠ .measp → t.x.ut = s.x.ut ∧ t.x.temp = s.x.temp) ∧ (i ≠ .measp → t.x.press = s.x.press)

/-- R31: no command clears a sticky field, and no event of the block but reset does. -/
def Obligations.StickyFieldsAreNeverCleared : Prop :=
  (∀ (i : Instr) (s t : State) (f : StatusField), exec i s = .next t → f.sticky = true → s.flag f = true → t.flag f = true) ∧
  ∀ (p : PortIn) (s : State) (f : StatusField), p.rst = false → f.sticky = true → s.flag f = true → (tick p s).flag f = true

/-- R70, U7: the first byte received in a transaction reaches no register and no response: two environments that differ in
such bytes alone leave the same registers and give the same response. -/
def Obligations.FirstByteReceivedIsDiscarded : Prop :=
  ∀ (i : Instr) (s : State) (ds : List Draw), List.Forall₂ Draw.SameButFirst s.env.draws ds →
    ∃ t u, exec i s = .next t ∧ exec i { s with env := { s.env with draws := ds } } = .next u ∧ t.x = u.x ∧ t.rsp = u.rsp

/-- R32: of STATUS, only INITD, TVALID and PVALID reach a command's behaviour: two states that agree on these, and otherwise
differ in STATUS alone, give the same other registers, the same bus activity and the same response code. -/
def Obligations.OnlyThreeFlagsGuardBehaviour : Prop :=
  ∀ (i : Instr) (s : State) (st : Half),
    (∀ f ∈ [StatusField.initd, .tvalid, .pvalid], statusGet f st = s.flag f) →
    ∃ t u evs c v w, exec i s = .next t ∧ exec i { s with x := { s.x with status := st } } = .next u ∧
      t.x.noStatus = u.x.noStatus ∧ t.env = u.env ∧ t.trace = s.trace ++ evs ++ [.evRsp c v] ∧ u.trace = s.trace ++ evs ++ [.evRsp c w] ∧
      (∀ f ∈ [StatusField.initd, .tvalid, .pvalid], t.flag f = u.flag f) ∧
      (i ≠ .init → i ≠ .meast → i ≠ .measp → i ≠ .get 0 → v = w)

/-! ## The sequencer and the invariant -/

/-- The invariant holds right after reset. -/
def Obligations.InvariantAtReset : Prop := Inv State.reset

/-- Every step keeps the invariant, whatever the inputs. -/
def Obligations.StepKeepsInvariant : Prop := ∀ s t : State, Inv s → step s = .next t → Inv t

/-- Every event of the block keeps the invariant, reset in the middle of a byte included. -/
def Obligations.TickKeepsInvariant : Prop := ∀ (p : PortIn) (s : State), Inv s → Inv (tick p s)

/-- The select line is high during every wait (R128), and in IDLE, where no session is open (R125, an inference of the spec), and in
the cycle of a response (the model's value of `seq`, log 23); `sclk` is then at its idle level, high (the spec's general knowledge,
log 12). -/
def Obligations.BusIsReleasedInWaitsAndIdle : Prop :=
  ∀ s : State, Inv s → s.seq.waiting = true ∨ s.seq = .idle ∨ s.seq = .respond → s.spi.csN = true ∧ s.spi.sclk = true

/-- R40, R41 against the pseudocode: from IDLE, the step list of a command, run event by event and bit by bit with nothing
offered, reaches the cycle of the response for the first time in exactly the state the command's meaning gives. -/
def Obligations.SequencerRefinesCommand : Prop :=
  ∀ (i : Instr) (s : State), Inv s → s.seq = .idle →
    ∃ n, exec i s = .next (seqTicks n (start i s)) ∧
      ∀ m, m < n → (seqTicks m (start i s)).seq ≠ .respond ∧ (seqTicks m (start i s)).cmdReady = false

/-- R104, R196: a command in progress always ends: from every busy state the block comes back to IDLE. -/
def Obligations.BusyBlockReturnsToIdle : Prop :=
  ∀ s : State, Inv s → ∃ n, (seqTicks n s).cmdReady = true
end

