-- ==== Sys2Proof/Laws/Compensation.lean ====
section
/-! SUPPORT. Small facts about the compensation arithmetic: the range test, and the floor as an integer division
(`44_compensation.md` R207, R213, R226). -/

namespace Sys2Proof.Machine

/-- The range test of R213 and R226. -/
theorem fitsS32_iff (v : Int) : fitsS32 v = true ↔ ¬ (v < -2 ^ 31 ∨ v > 2 ^ 31 - 1) := by
  simp [fitsS32]

/-- The floor the model takes is the greatest integer not above (`00_scope.md` R12). -/
theorem floor_eq (q : Rat) : Rat.floor q = Int.floor q := rfl

/-- The floor of a quotient with a positive divisor is the integer division toward minus infinity. -/
theorem floor_div_pos (n d : Int) (h : 0 < d) : Int.floor ((n : Rat) / (d : Rat)) = n / d := by
  lift d to Nat using h.le
  exact_mod_cast Rat.floor_intCast_div_natCast n d

/-- `X1 + MD` over one denominator (R211). -/
theorem calcT_divisor (UT AC5 AC6 MD : Int) :
    (((UT : Rat) - AC6) * AC5) / 2 ^ 15 + MD = (((UT - AC6) * AC5 + MD * 2 ^ 15 : Int) : Rat) / 2 ^ 15 := by
  push_cast; ring

/-- `CALC_T` answers a temperature that fits its register (R213). -/
theorem calcT_fits {UT AC5 AC6 MC MD : Int} {b5 : Rat} {T : Int} (h : calcT UT AC5 AC6 MC MD = some (b5, T)) :
    fitsS32 T = true := by
  unfold calcT at h
  simp only at h
  split at h
  · simp at h
  · split at h
    · rename_i hf
      simp only [Option.some.injEq, Prod.mk.injEq] at h
      rw [← h.2]; exact hf
    · simp at h

/-- `CALC_P` answers a pressure that fits its register (R226). -/
theorem calcP_fits {B5 UP : Rat} {AC1 AC2 AC3 AC4 B1 B2 P : Int} (h : calcP B5 UP AC1 AC2 AC3 AC4 B1 B2 = some P) :
    fitsS32 P = true := by
  unfold calcP calcPAt at h
  simp only at h
  split at h
  · simp at h
  · split at h
    · rename_i hf
      simp only [Option.some.injEq] at h
      rw [← h]; exact hf
    · simp at h

end Sys2Proof.Machine
end

