-- ==== Sys2Proof/Laws/Decode.lean ====
section
/-! SUPPORT. The fields of a command word (`30_encoding.md` R100): a laid-out word gives its fields back, and a word is its fields. -/

namespace Sys2Proof

/-- The four fields of a laid-out word. -/
theorem opField_layWord (op : BitVec 4) (a d : Byte) : opField (layWord op a d) = op := by
  apply BitVec.eq_of_getLsbD_eq
  intro i hi
  simp only [opField, layWord, BitVec.getLsbD_extractLsb', BitVec.getLsbD_append]
  interval_cases i <;> simp

theorem zField_layWord (op : BitVec 4) (a d : Byte) : zField (layWord op a d) = 0 := by
  apply BitVec.eq_of_getLsbD_eq
  intro i hi
  simp only [zField, layWord, BitVec.getLsbD_extractLsb', BitVec.getLsbD_append]
  interval_cases i <;> simp

theorem aField_layWord (op : BitVec 4) (a d : Byte) : aField (layWord op a d) = a := by
  apply BitVec.eq_of_getLsbD_eq
  intro i hi
  simp only [aField, layWord, BitVec.getLsbD_extractLsb', BitVec.getLsbD_append]
  interval_cases i <;> simp

theorem dField_layWord (op : BitVec 4) (a d : Byte) : dField (layWord op a d) = d := by
  apply BitVec.eq_of_getLsbD_eq
  intro i hi
  simp only [dField, layWord, BitVec.getLsbD_extractLsb', BitVec.getLsbD_append]
  interval_cases i <;> simp

/-- A word is its four fields (R100). -/
theorem word_eq_fields (w : Word) : w = opField w ++ zField w ++ aField w ++ dField w := by
  apply BitVec.eq_of_getLsbD_eq
  intro i hi
  simp only [opField, zField, aField, dField, BitVec.getLsbD_extractLsb', BitVec.getLsbD_append]
  interval_cases i <;> simp

/-- A word whose `z` is zero is laid out from its operation and operands. -/
theorem word_of_zField_zero {w : Word} (hz : zField w = 0) : w = layWord (opField w) (aField w) (dField w) := by
  have h := word_eq_fields w
  rw [hz] at h
  exact h

/-- The mask of format A keeps everything but `a` (R102). -/
theorem layWord_maskA (op : BitVec 4) (a : Byte) : layWord op a 0 &&& 0xFFFF00FF = layWord op 0 0 := by
  apply BitVec.eq_of_getLsbD_eq
  intro i hi
  simp only [layWord, BitVec.getLsbD_and, BitVec.getLsbD_append]
  interval_cases i <;> simp

/-- The mask of format AD keeps everything but `a` and `d` (R102). -/
theorem layWord_maskAD (op : BitVec 4) (a d : Byte) : layWord op a d &&& 0xFFFF0000 = layWord op 0 0 := by
  apply BitVec.eq_of_getLsbD_eq
  intro i hi
  simp only [layWord, BitVec.getLsbD_and, BitVec.getLsbD_append]
  interval_cases i <;> simp

/-- Every row of R102 is in the table. -/
theorem opRow_mem (i : Instr) : opRow i ∈ opTable := by cases i <;> simp [opTable, opRow]

end Sys2Proof
end

