-- ==== Sys2Proof/Laws/State.lean ====
section
/-! SUPPORT. What each update of the state does to each of its fields, by `rfl`. -/

namespace Sys2Proof.Machine

variable (s : State)

section
variable (f : StatusField) (b : Bool)

@[simp] theorem State.setFlag_params : (s.setFlag f b).params = s.params := rfl
@[simp] theorem State.setFlag_x : (s.setFlag f b).x = { s.x with status := statusSet f b s.x.status } := rfl
@[simp] theorem State.setFlag_seq : (s.setFlag f b).seq = s.seq := rfl
@[simp] theorem State.setFlag_work : (s.setFlag f b).work = s.work := rfl
@[simp] theorem State.setFlag_spi : (s.setFlag f b).spi = s.spi := rfl
@[simp] theorem State.setFlag_rsp : (s.setFlag f b).rsp = s.rsp := rfl
@[simp] theorem State.setFlag_env : (s.setFlag f b).env = s.env := rfl
@[simp] theorem State.setFlag_host : (s.setFlag f b).host = s.host := rfl
@[simp] theorem State.setFlag_trace : (s.setFlag f b).trace = s.trace := rfl

end

section
variable (n : Nat)

@[simp] theorem State.setNsamp_params : (s.setNsamp n).params = s.params := rfl
@[simp] theorem State.setNsamp_x : (s.setNsamp n).x = { s.x with status := nsampSet n s.x.status } := rfl
@[simp] theorem State.setNsamp_seq : (s.setNsamp n).seq = s.seq := rfl
@[simp] theorem State.setNsamp_work : (s.setNsamp n).work = s.work := rfl
@[simp] theorem State.setNsamp_spi : (s.setNsamp n).spi = s.spi := rfl
@[simp] theorem State.setNsamp_rsp : (s.setNsamp n).rsp = s.rsp := rfl
@[simp] theorem State.setNsamp_env : (s.setNsamp n).env = s.env := rfl
@[simp] theorem State.setNsamp_host : (s.setNsamp n).host = s.host := rfl
@[simp] theorem State.setNsamp_trace : (s.setNsamp n).trace = s.trace := rfl

end

section
variable (r : Reg) (v : Int)

@[simp] theorem State.writeReg_params : (s.writeReg r v).params = s.params := rfl
@[simp] theorem State.writeReg_x : (s.writeReg r v).x = s.x.write r v := rfl
@[simp] theorem State.writeReg_seq : (s.writeReg r v).seq = s.seq := rfl
@[simp] theorem State.writeReg_work : (s.writeReg r v).work = s.work := rfl
@[simp] theorem State.writeReg_spi : (s.writeReg r v).spi = s.spi := rfl
@[simp] theorem State.writeReg_rsp : (s.writeReg r v).rsp = s.rsp := rfl
@[simp] theorem State.writeReg_env : (s.writeReg r v).env = s.env := rfl
@[simp] theorem State.writeReg_host : (s.writeReg r v).host = s.host := rfl
@[simp] theorem State.writeReg_trace : (s.writeReg r v).trace = s.trace := rfl

end

section
variable (e : Event)

@[simp] theorem State.emit_params : (s.emit e).params = s.params := rfl
@[simp] theorem State.emit_x : (s.emit e).x = s.x := rfl
@[simp] theorem State.emit_seq : (s.emit e).seq = s.seq := rfl
@[simp] theorem State.emit_work : (s.emit e).work = s.work := rfl
@[simp] theorem State.emit_spi : (s.emit e).spi = s.spi := rfl
@[simp] theorem State.emit_rsp : (s.emit e).rsp = s.rsp := rfl
@[simp] theorem State.emit_env : (s.emit e).env = s.env := rfl
@[simp] theorem State.emit_host : (s.emit e).host = s.host := rfl
@[simp] theorem State.emit_trace : (s.emit e).trace = s.trace ++ [e] := rfl

end

section
variable (us : Nat)

@[simp] theorem wait_params : (wait us s).params = s.params := rfl
@[simp] theorem wait_x : (wait us s).x = s.x := rfl
@[simp] theorem wait_seq : (wait us s).seq = s.seq := rfl
@[simp] theorem wait_work : (wait us s).work = s.work := rfl
@[simp] theorem wait_spi : (wait us s).spi = s.spi := rfl
@[simp] theorem wait_rsp : (wait us s).rsp = s.rsp := rfl
@[simp] theorem wait_env : (wait us s).env = s.env := rfl
@[simp] theorem wait_host : (wait us s).host = s.host := rfl
@[simp] theorem wait_trace : (wait us s).trace = s.trace ++ [.evWait us] := rfl

end

section

@[simp] theorem lowerRsp_params : (lowerRsp s).params = s.params := rfl
@[simp] theorem lowerRsp_x : (lowerRsp s).x = s.x := rfl
@[simp] theorem lowerRsp_seq : (lowerRsp s).seq = s.seq := rfl
@[simp] theorem lowerRsp_work : (lowerRsp s).work = s.work := rfl
@[simp] theorem lowerRsp_spi : (lowerRsp s).spi = s.spi := rfl
@[simp] theorem lowerRsp_rsp : (lowerRsp s).rsp = none := rfl
@[simp] theorem lowerRsp_env : (lowerRsp s).env = s.env := rfl
@[simp] theorem lowerRsp_host : (lowerRsp s).host = s.host := rfl
@[simp] theorem endResponse_params : (endResponse s).params = s.params := rfl
@[simp] theorem endResponse_x : (endResponse s).x = s.x := rfl
@[simp] theorem endResponse_seq : (endResponse s).seq = .idle := rfl
@[simp] theorem endResponse_work : (endResponse s).work = s.work := rfl
@[simp] theorem endResponse_spi : (endResponse s).spi = s.spi := rfl
@[simp] theorem endResponse_rsp : (endResponse s).rsp = none := rfl
@[simp] theorem endResponse_env : (endResponse s).env = s.env := rfl
@[simp] theorem endResponse_host : (endResponse s).host = s.host := rfl
@[simp] theorem endResponse_trace : (endResponse s).trace = s.trace := rfl
@[simp] theorem lowerRsp_trace : (lowerRsp s).trace = s.trace := rfl

end

section
variable (c : Code) (d : Word)

@[simp] theorem respond_params : (respond c d s).params = s.params := rfl
@[simp] theorem respond_x : (respond c d s).x = s.x := rfl
@[simp] theorem respond_seq : (respond c d s).seq = .respond := rfl
@[simp] theorem respond_work : (respond c d s).work = Work.idle := rfl
@[simp] theorem respond_spi : (respond c d s).spi = s.spi := rfl
@[simp] theorem respond_rsp : (respond c d s).rsp = some ⟨c, d⟩ := rfl
@[simp] theorem respond_env : (respond c d s).env = s.env := rfl
@[simp] theorem respond_host : (respond c d s).host = s.host := rfl
@[simp] theorem respond_trace : (respond c d s).trace = s.trace ++ [.evRsp c d] := rfl

end

section
variable (c : Code)

@[simp] theorem respondStatus_params : (respondStatus c s).params = s.params := rfl
@[simp] theorem respondStatus_x : (respondStatus c s).x = s.x := rfl
@[simp] theorem respondStatus_seq : (respondStatus c s).seq = .respond := rfl
@[simp] theorem respondStatus_work : (respondStatus c s).work = Work.idle := rfl
@[simp] theorem respondStatus_spi : (respondStatus c s).spi = s.spi := rfl
@[simp] theorem respondStatus_rsp : (respondStatus c s).rsp = some ⟨c, s.x.view32 .status⟩ := rfl
@[simp] theorem respondStatus_env : (respondStatus c s).env = s.env := rfl
@[simp] theorem respondStatus_host : (respondStatus c s).host = s.host := rfl
@[simp] theorem respondStatus_trace : (respondStatus c s).trace = s.trace ++ [.evRsp c (s.x.view32 .status)] := rfl

end

section
variable (c : Condition)

@[simp] theorem refuse_params : (refuse c s).params = s.params := rfl
@[simp] theorem refuse_x : (refuse c s).x = s.x := rfl
@[simp] theorem refuse_seq : (refuse c s).seq = .respond := rfl
@[simp] theorem refuse_work : (refuse c s).work = Work.idle := rfl
@[simp] theorem refuse_spi : (refuse c s).spi = s.spi := rfl
@[simp] theorem refuse_rsp : (refuse c s).rsp = some ⟨c.code, 0⟩ := rfl
@[simp] theorem refuse_env : (refuse c s).env = s.env := rfl
@[simp] theorem refuse_host : (refuse c s).host = s.host := rfl
@[simp] theorem refuse_trace : (refuse c s).trace = s.trace ++ [.evRsp c.code 0] := rfl

end

section
variable (i : Instr) (q : Seq)

@[simp] theorem enter_params : (enter i q s).params = s.params := rfl
@[simp] theorem enter_x : (enter i q s).x = s.x := rfl
@[simp] theorem enter_seq : (enter i q s).seq = q := rfl
@[simp] theorem enter_work : (enter i q s).work = { Work.idle with cmd := some i } := rfl
@[simp] theorem enter_spi : (enter i q s).spi = s.spi := rfl
@[simp] theorem enter_rsp : (enter i q s).rsp = s.rsp := rfl
@[simp] theorem enter_env : (enter i q s).env = s.env := rfl
@[simp] theorem enter_host : (enter i q s).host = s.host := rfl
@[simp] theorem enter_trace : (enter i q s).trace = s.trace := rfl

end

section

@[simp] theorem openSession_params : (openSession s).params = s.params := rfl
@[simp] theorem openSession_x : (openSession s).x = s.x := rfl
@[simp] theorem openSession_seq : (openSession s).seq = s.seq := rfl
@[simp] theorem openSession_work : (openSession s).work = s.work := rfl
@[simp] theorem openSession_spi : (openSession s).spi = s.spi.begin := rfl
@[simp] theorem openSession_rsp : (openSession s).rsp = s.rsp := rfl
@[simp] theorem openSession_env : (openSession s).env = s.env := rfl
@[simp] theorem openSession_host : (openSession s).host = s.host := rfl
@[simp] theorem openSession_trace : (openSession s).trace = s.trace ++ [.evOpen true] := rfl

end

section

@[simp] theorem closeSession_params : (closeSession s).params = s.params := rfl
@[simp] theorem closeSession_x : (closeSession s).x = s.x := rfl
@[simp] theorem closeSession_seq : (closeSession s).seq = s.seq := rfl
@[simp] theorem closeSession_work : (closeSession s).work = s.work := rfl
@[simp] theorem closeSession_spi : (closeSession s).spi = Spi.idle := rfl
@[simp] theorem closeSession_rsp : (closeSession s).rsp = s.rsp := rfl
@[simp] theorem closeSession_env : (closeSession s).env = s.env := rfl
@[simp] theorem closeSession_host : (closeSession s).host = s.host := rfl
@[simp] theorem closeSession_trace : (closeSession s).trace = s.trace ++ [.evClose] := rfl

end

section

@[simp] theorem openFailed_params : (openFailed s).params = s.params := rfl
@[simp] theorem openFailed_x : (openFailed s).x = { s.x with status := statusSet .busunav true s.x.status } := rfl
@[simp] theorem openFailed_seq : (openFailed s).seq = s.seq := rfl
@[simp] theorem openFailed_work : (openFailed s).work = s.work := rfl
@[simp] theorem openFailed_spi : (openFailed s).spi = s.spi := rfl
@[simp] theorem openFailed_rsp : (openFailed s).rsp = s.rsp := rfl
@[simp] theorem openFailed_env : (openFailed s).env = s.env := rfl
@[simp] theorem openFailed_host : (openFailed s).host = s.host := rfl
@[simp] theorem openFailed_trace : (openFailed s).trace = s.trace ++ [.evOpen false] := rfl

end

section

@[simp] theorem applyReset_params : (applyReset s).params = s.params := rfl
@[simp] theorem applyReset_x : (applyReset s).x = RegFile.reset := rfl
@[simp] theorem applyReset_seq : (applyReset s).seq = .idle := rfl
@[simp] theorem applyReset_work : (applyReset s).work = Work.idle := rfl
@[simp] theorem applyReset_spi : (applyReset s).spi = Spi.idle := rfl
@[simp] theorem applyReset_rsp : (applyReset s).rsp = none := rfl
@[simp] theorem applyReset_env : (applyReset s).env = { s.env with miso := [] } := rfl
@[simp] theorem applyReset_host : (applyReset s).host = s.host := rfl
@[simp] theorem applyReset_trace : (applyReset s).trace = s.trace := rfl

end

section
variable (c : Condition)

/-- What raising a condition does to STATUS (R250, R252). -/
theorem raise_status : (raise c s).x.status = (match c.field with | some f => statusSet f true s.x.status | none => s.x.status) := by
  cases c <;> rfl

@[simp] theorem raise_params : (raise c s).params = s.params := by cases c <;> rfl
@[simp] theorem raise_seq : (raise c s).seq = s.seq := by cases c <;> rfl
@[simp] theorem raise_work : (raise c s).work = s.work := by cases c <;> rfl
@[simp] theorem raise_spi : (raise c s).spi = s.spi := by cases c <;> rfl
@[simp] theorem raise_rsp : (raise c s).rsp = s.rsp := by cases c <;> rfl
@[simp] theorem raise_env : (raise c s).env = s.env := by cases c <;> rfl
@[simp] theorem raise_host : (raise c s).host = s.host := by cases c <;> rfl
@[simp] theorem raise_trace : (raise c s).trace = s.trace := by cases c <;> rfl

/-- Raising a condition changes STATUS alone among the registers. -/
@[simp] theorem raise_noStatus : (raise c s).x.noStatus = s.x.noStatus := by cases c <;> rfl

end

end Sys2Proof.Machine
end

