-- ==== Sys2Proof/Laws/Flags.lean ====
section
/-! SUPPORT. STATUS as fields (`10_state.md` R30): what a write of one field does to every field, and that the hardwired bits stay
zero. -/

namespace Sys2Proof.Machine

/-- The one-bit fields lie below NSAMP. -/
theorem StatusField.pos_lt (f : StatusField) : f.pos < 10 := by cases f <;> decide

/-- No two fields share a bit. -/
theorem StatusField.pos_inj {f g : StatusField} : f.pos = g.pos ↔ f = g := by
  cases f <;> cases g <;> decide

/-- A field reads as it was written. -/
@[simp] theorem statusGet_set_same (f : StatusField) (b : Bool) (st : Half) : statusGet f (statusSet f b st) = b := by
  have h := f.pos_lt
  cases b <;> simp [statusGet, statusSet, BitVec.getLsbD_twoPow]
  all_goals omega

/-- A write of one field leaves the others. -/
theorem statusGet_set_ne {f g : StatusField} (h : f ≠ g) (b : Bool) (st : Half) :
    statusGet f (statusSet g b st) = statusGet f st := by
  have hf := f.pos_lt
  have hne : ¬ g.pos = f.pos := fun e => h (StatusField.pos_inj.mp e).symm
  cases b <;> simp [statusGet, statusSet, BitVec.getLsbD_twoPow, hne]
  all_goals omega

/-- Both cases of reading a field after a write. -/
theorem statusGet_set (f g : StatusField) (b : Bool) (st : Half) :
    statusGet f (statusSet g b st) = if f = g then b else statusGet f st := by
  by_cases h : f = g
  · subst h; simp
  · simp [h, statusGet_set_ne h]

/-- The bits of NSAMP are untouched by the one-bit fields. -/
@[simp] theorem nsampGet_set (f : StatusField) (b : Bool) (st : Half) : nsampGet (statusSet f b st) = nsampGet st := by
  have h := f.pos_lt
  unfold nsampGet
  congr 1
  apply BitVec.eq_of_getLsbD_eq
  intro i hi
  have h2 : ¬ f.pos = 10 + i := by omega
  cases b <;> simp [statusSet, BitVec.getLsbD_twoPow, h2, hi]
  all_goals omega

/-- The hardwired bits are untouched by the one-bit fields. -/
@[simp] theorem statusReserved_set (f : StatusField) (b : Bool) (st : Half) :
    statusReserved (statusSet f b st) = statusReserved st := by
  have h := f.pos_lt
  unfold statusReserved
  apply BitVec.eq_of_getLsbD_eq
  intro i hi
  have h2 : ¬ f.pos = 12 + i := by omega
  cases b <;> simp [statusSet, BitVec.getLsbD_twoPow, h2, hi]
  all_goals omega

/-- The number written to NSAMP, as two bits of the word. -/
theorem getLsbD_nsampBits (n i : Nat) (hi : i < 16) :
    (BitVec.ofNat 16 (n % 4) <<< 10).getLsbD i = (decide (10 ≤ i) && (n % 4).testBit (i - 10)) := by
  by_cases h : 10 ≤ i
  · have h1 : i - 10 < 16 := by omega
    have h2 : ¬ i < 10 := by omega
    have h3 : (BitVec.ofNat 16 (n % 4)).getLsbD (i - 10) = (n % 4).testBit (i - 10) := by
      rw [BitVec.getLsbD_ofNat]; simp [h1]
    simp only [BitVec.getLsbD_shiftLeft, hi, h, h2, h3, decide_true, decide_false, Bool.not_false, Bool.true_and]
  · have h2 : i < 10 := by omega
    simp [hi, h, h2]

/-- The mask that clears NSAMP. -/
theorem getLsbD_nsampMask (i : Nat) (hi : i < 16) : nsampMask.getLsbD i = (i < 10 || 12 ≤ i : Bool) := by
  have : ∀ j : Fin 16, nsampMask.getLsbD j.val = (j.val < 10 || 12 ≤ j.val : Bool) := by decide
  exact this ⟨i, hi⟩

/-- NSAMP reads as it was written, on two bits. -/
@[simp] theorem nsampGet_setNsamp (n : Nat) (st : Half) : nsampGet (nsampSet n st) = n % 4 := by
  unfold nsampGet
  have hb : (nsampSet n st).extractLsb' 10 2 = BitVec.ofNat 2 (n % 4) := by
    apply BitVec.eq_of_getLsbD_eq
    intro i hi
    have h0 : 10 + i < 16 := by omega
    have h1 : ¬ 12 ≤ 10 + i := by omega
    simp only [BitVec.getLsbD_extractLsb', nsampSet, BitVec.getLsbD_or, BitVec.getLsbD_and, getLsbD_nsampBits n (10 + i) h0,
      getLsbD_nsampMask (10 + i) h0, BitVec.getLsbD_ofNat]
    simp [hi, h1]
  rw [hb]
  simp

/-- The one-bit fields are untouched by NSAMP. -/
@[simp] theorem statusGet_setNsamp (f : StatusField) (n : Nat) (st : Half) : statusGet f (nsampSet n st) = statusGet f st := by
  have h := f.pos_lt
  have h0 : f.pos < 16 := by omega
  have h1 : ¬ 10 ≤ f.pos := by omega
  simp only [statusGet, nsampSet, BitVec.getLsbD_or, BitVec.getLsbD_and, getLsbD_nsampBits n f.pos h0,
    getLsbD_nsampMask f.pos h0]
  simp [h, h1]

/-- The hardwired bits are untouched by NSAMP. -/
@[simp] theorem statusReserved_setNsamp (n : Nat) (st : Half) : statusReserved (nsampSet n st) = statusReserved st := by
  unfold statusReserved
  apply BitVec.eq_of_getLsbD_eq
  intro i hi
  have h0 : 12 + i < 16 := by omega
  have h2 : (n % 4).testBit (12 + i - 10) = false := by
    apply Nat.testBit_lt_two_pow
    have : n % 4 < 4 := Nat.mod_lt _ (by decide)
    calc n % 4 < 2 ^ 2 := this
      _ ≤ 2 ^ (12 + i - 10) := Nat.pow_le_pow_right (by decide) (by omega)
  simp only [BitVec.getLsbD_extractLsb', nsampSet, BitVec.getLsbD_or, BitVec.getLsbD_and, getLsbD_nsampBits n (12 + i) h0,
    getLsbD_nsampMask (12 + i) h0, h2]
  simp [hi]

section
variable (s : State) (f g : StatusField) (b : Bool) (n : Nat) (r : Reg) (v : Int) (c : Condition) (e : Event)

/-- Reading a field of a state after a write of a field. -/
theorem State.flag_setFlag : (s.setFlag g b).flag f = if f = g then b else s.flag f := statusGet_set f g b s.x.status

@[simp] theorem State.flag_setNsamp : (s.setNsamp n).flag f = s.flag f := statusGet_setNsamp f n s.x.status
@[simp] theorem State.nsamp_setFlag : (s.setFlag g b).nsamp = s.nsamp := nsampGet_set g b s.x.status
@[simp] theorem State.nsamp_setNsamp : (s.setNsamp n).nsamp = n % 4 := nsampGet_setNsamp n s.x.status
@[simp] theorem State.flag_emit : (s.emit e).flag f = s.flag f := rfl
@[simp] theorem State.nsamp_emit : (s.emit e).nsamp = s.nsamp := rfl

/-- Reading a field after a condition was raised (R252). -/
theorem State.flag_raise : (raise c s).flag f = (decide (c.field = some f) || s.flag f) := by
  unfold raise
  cases hc : c.field with
  | none => simp
  | some g =>
    simp only [State.flag_setFlag, Option.some.injEq]
    by_cases h : f = g
    · simp [h]
    · have h2 : ¬ g = f := fun e => h e.symm
      simp [h, h2]

@[simp] theorem State.nsamp_raise : (raise c s).nsamp = s.nsamp := by
  unfold raise
  cases c.field <;> simp

@[simp] theorem State.reserved_raise : statusReserved (raise c s).x.status = statusReserved s.x.status := by
  unfold raise
  cases c.field <;> simp

/-- A register write other than of STATUS leaves STATUS. -/
theorem RegFile.status_write (x : RegFile) (h : r ≠ .status) : (x.write r v).status = x.status := by
  cases r <;> first | rfl | exact absurd rfl h

end

end Sys2Proof.Machine
end

