-- ==== Sys2Proof/Laws/Operands.lean ====
section
/-! SUPPORT. The register file as integers, register numbers, casts, frames and the values they carry. -/

namespace Sys2Proof.Machine

/-- The integers a register can hold (`10_state.md` R20, R21). -/
def Reg.holds (r : Reg) (v : Int) : Prop :=
  match r with
  | .status => 0 ≤ v ∧ v < 2 ^ 16
  | .temp => -2 ^ 31 ≤ v ∧ v < 2 ^ 31
  | .press => -2 ^ 31 ≤ v ∧ v < 2 ^ 31
  | .chipid => 0 ≤ v ∧ v < 2 ^ 8
  | .chipver => 0 ≤ v ∧ v < 2 ^ 8
  | .ut => 0 ≤ v ∧ v < 2 ^ 16
  | .ac4 => 0 ≤ v ∧ v < 2 ^ 16
  | .ac5 => 0 ≤ v ∧ v < 2 ^ 16
  | .ac6 => 0 ≤ v ∧ v < 2 ^ 16
  | .ac1 => -2 ^ 15 ≤ v ∧ v < 2 ^ 15
  | .ac2 => -2 ^ 15 ≤ v ∧ v < 2 ^ 15
  | .ac3 => -2 ^ 15 ≤ v ∧ v < 2 ^ 15
  | .b1 => -2 ^ 15 ≤ v ∧ v < 2 ^ 15
  | .b2 => -2 ^ 15 ≤ v ∧ v < 2 ^ 15
  | .mb => -2 ^ 15 ≤ v ∧ v < 2 ^ 15
  | .mc => -2 ^ 15 ≤ v ∧ v < 2 ^ 15
  | .md => -2 ^ 15 ≤ v ∧ v < 2 ^ 15

/-- An unsigned register of a written value that fits. -/
theorem toNat_ofInt_fits {n : Nat} {v : Int} (h0 : 0 ≤ v) (h1 : v < 2 ^ n) : ((BitVec.ofInt n v).toNat : Int) = v := by
  rw [BitVec.toNat_ofInt]
  have h2 : v % ((2 ^ n : Nat) : Int) = v := Int.emod_eq_of_lt h0 (by exact_mod_cast h1)
  rw [h2]
  omega

/-- A signed 16-bit register of a written value that fits. -/
theorem toInt_ofInt16_fits {v : Int} (h0 : -2 ^ 15 ≤ v) (h1 : v < 2 ^ 15) : (BitVec.ofInt 16 v).toInt = v := by
  rw [BitVec.toInt_ofInt]
  norm_num [Int.bmod]
  split <;> omega

/-- A signed 32-bit register of a written value that fits. -/
theorem toInt_ofInt32_fits {v : Int} (h0 : -2 ^ 31 ≤ v) (h1 : v < 2 ^ 31) : (BitVec.ofInt 32 v).toInt = v := by
  rw [BitVec.toInt_ofInt]
  norm_num [Int.bmod]
  split <;> omega

/-- A register reads as the value written, when it can hold it. -/
theorem RegFile.read_write_same (x : RegFile) (r : Reg) {v : Int} (h : r.holds v) : (x.write r v).read r = v := by
  cases r <;> obtain ⟨h0, h1⟩ := h <;>
    first
    | exact toNat_ofInt_fits h0 h1
    | exact toInt_ofInt16_fits h0 h1
    | exact toInt_ofInt32_fits h0 h1

/-- A write leaves the other registers. -/
theorem RegFile.read_write_ne (x : RegFile) {r q : Reg} (h : q ≠ r) (v : Int) : (x.write r v).read q = x.read q := by
  cases r <;> cases q <;> first | rfl | exact absurd rfl h

/-- The register of a register's number (R20). -/
@[simp] theorem Reg.ofNum_num (r : Reg) : Reg.ofNum r.num = some r := by cases r <;> rfl

/-- A number has a register exactly when it is assigned (R20). -/
theorem Reg.ofNum_isSome : ∀ r : Byte, (Reg.ofNum r).isSome = assignedNumber r := by decide

/-- `cast_u16` gives a value an unsigned register holds. -/
theorem Cast.u16_range (v : Int) : 0 ≤ Cast.u16.apply v ∧ Cast.u16.apply v < 2 ^ 16 := by
  simp only [Cast.apply]; omega

/-- `cast_u8` gives a value a byte register holds. -/
theorem Cast.u8_range (v : Int) : 0 ≤ Cast.u8.apply v ∧ Cast.u8.apply v < 2 ^ 8 := by
  simp only [Cast.apply]; omega

/-- `cast_s16` gives a value a signed register holds. -/
theorem Cast.s16_range (v : Int) : -2 ^ 15 ≤ Cast.s16.apply v ∧ Cast.s16.apply v < 2 ^ 15 := by
  simp only [Cast.apply, sext]; split <;> omega

/-- The bytes of a longer list, one more behind. -/
theorem bigEndian_snoc (bs : List Byte) (b : Byte) : bigEndian (bs ++ [b]) = bigEndian bs * 256 + b.toNat := by
  simp [bigEndian]

/-- `n` bytes are below `256^n`. -/
theorem bigEndian_lt (bs : List Byte) : bigEndian bs < 256 ^ bs.length := by
  induction bs using List.reverseRecOn with
  | nil => simp [bigEndian]
  | append_singleton bs b ih =>
    rw [bigEndian_snoc, List.length_append, List.length_singleton, Nat.pow_succ]
    have := b.isLt
    omega

@[simp] theorem frameRead_length (a : Byte) (n : Nat) : (frameRead a n).length = n + 1 := by simp [frameRead]
@[simp] theorem frameWrite_length (a v : Byte) : (frameWrite a v).length = 3 := rfl

end Sys2Proof.Machine
end

