-- ==== Sys2Proof/Laws/Transport.lean ====
section
/-! SUPPORT. The transport: what the shift unit does with a byte (`40_bus_transport.md` R127), what a whole transaction does to the
state (R120 to R124), MemRead and MemWrite in terms of the environment's answer (R141, R145). -/

namespace Sys2Proof.Machine

/-- Eight bits in, most significant first, make the byte. -/
theorem shiftIn_byte (o i : Byte) :
    ((bitsMsbFirst i).foldl (fun (sh : Byte) b => (sh <<< 1) ||| (BitVec.ofBool b).setWidth 8) o) = i := by
  simp only [bitsMsbFirst, List.range, List.range.loop, List.map_cons, List.map_nil, List.foldl_cons, List.foldl_nil]
  apply BitVec.eq_of_getLsbD_eq
  intro k hk
  interval_cases k <;> simp

/-- Shifting bits through the unit, as one state. -/
theorem Spi.shiftBits_shift (bits : List Bool) (sp : Spi) :
    (sp.shiftBits bits).shift = bits.foldl (fun (sh : Byte) b => (sh <<< 1) ||| (BitVec.ofBool b).setWidth 8) sp.shift := by
  induction bits generalizing sp with
  | nil => rfl
  | cons b bs ih => exact ih (sp.fall.rise b)

/-- Shifting bits keeps the select line, the byte counter and the receive buffer. -/
theorem Spi.shiftBits_frame (bits : List Bool) (sp : Spi) :
    (sp.shiftBits bits).csN = sp.csN ∧ (sp.shiftBits bits).byteCnt = sp.byteCnt ∧ (sp.shiftBits bits).rxBuf = sp.rxBuf := by
  induction bits generalizing sp with
  | nil => exact ⟨rfl, rfl, rfl⟩
  | cons b bs ih => exact ih (sp.fall.rise b)

/-- One byte exchanged: the byte received joins the buffer, whatever was sent (R123). -/
theorem Spi.byte_frame (o i : Byte) (sp : Spi) :
    (sp.byte o i).csN = sp.csN ∧ (sp.byte o i).byteCnt = sp.byteCnt + 1 ∧ (sp.byte o i).rxBuf = sp.rxBuf ++ [i] := by
  obtain ⟨h1, h2, h3⟩ := Spi.shiftBits_frame (bitsMsbFirst i) (sp.load o)
  refine ⟨h1, congrArg (· + 1) h2, ?_⟩
  show ((sp.load o).shiftBits (bitsMsbFirst i)).rxBuf ++ [((sp.load o).shiftBits (bitsMsbFirst i)).shift] = _
  rw [h3, Spi.shiftBits_shift, shiftIn_byte]
  rfl

/-- The loop of XFER receives as many bytes as both lists have (R121, R123). -/
theorem Spi.xfer_frame (out inp : List Byte) (sp : Spi) :
    (sp.xfer out inp).csN = sp.csN ∧ (sp.xfer out inp).byteCnt = sp.byteCnt + (inp.take out.length).length ∧
      (sp.xfer out inp).rxBuf = sp.rxBuf ++ inp.take out.length := by
  induction out generalizing inp sp with
  | nil => simp [Spi.xfer]
  | cons o os ih =>
    cases inp with
    | nil => simp [Spi.xfer]
    | cons i is =>
      obtain ⟨h1, h2, h3⟩ := ih is (sp.byte o i)
      obtain ⟨b1, b2, b3⟩ := Spi.byte_frame o i sp
      simp only [Spi.xfer, h1, h2, h3, b1, b2, b3]
      simp
      omega

/-- Taking a draw gives the next answer and moves the environment on (R121). -/
theorem takeDraw_eq (s : State) : takeDraw s = (drawAt s 0, { s with env := envAfter 1 s.env }) := by
  unfold takeDraw drawAt Env.draw envAfter
  cases h : s.env.draws <;> simp [h]

/-- A whole transaction (R120 to R124): what it returns and everything it changes. -/
theorem txn_eq (out : List Byte) (s : State) :
    txn out s = ((((drawAt s 0).reply out.length).length, (drawAt s 0).reply out.length),
      { s with x := { s.x with status := txnStatus out.length (drawAt s 0) s.x.status }, spi := txnSpi (drawAt s 0) s.spi,
               env := envAfter 1 s.env, trace := s.trace ++ txnEvents out (drawAt s 0) }) := by
  unfold txn
  rw [takeDraw_eq]
  cases ha : (drawAt s 0).avail with
  | false =>
    simp [ha, Draw.reply, txnStatus, txnSpi, txnEvents, openFailed, raise, Condition.field, State.setFlag, State.emit]
  | true =>
    obtain ⟨-, h2, h3⟩ := Spi.xfer_frame out (drawAt s 0).bytes s.spi.begin
    have e2 : (s.spi.begin.xfer out (drawAt s 0).bytes).byteCnt = ((drawAt s 0).reply out.length).length := by
      rw [h2]; simp [Spi.begin, Draw.reply, ha]
    have e3 : (s.spi.begin.xfer out (drawAt s 0).bytes).rxBuf = (drawAt s 0).reply out.length := by
      rw [h3]; simp [Spi.begin, Draw.reply, ha]
    simp only [ha, openSession, State.emit, endXfer, e2, e3, if_true, txnStatus, txnSpi, txnEvents]
    split <;> simp [closeSession, State.emit, raise, Condition.field, State.setFlag]

/-- MemRead in terms of the environment's answer (R141). -/
theorem memRead_eq (a : Byte) (n : Nat) (s : State) :
    memRead a n s = ((drawAt s 0).value n,
      { s with x := { s.x with status := txnStatus (n + 1) (drawAt s 0) s.x.status }, spi := txnSpi (drawAt s 0) s.spi,
               env := envAfter 1 s.env, trace := s.trace ++ txnEvents (frameRead a n) (drawAt s 0) }) := by
  unfold memRead
  rw [txn_eq]
  simp only [frameRead_length, Draw.value, readValue, Draw.full, List.drop_one, Prod.mk.injEq, and_true]
  by_cases h : ((drawAt s 0).reply (n + 1)).length = n + 1 <;> simp [h]

/-- MemWrite in terms of the environment's answer (R145). -/
theorem memWrite_eq (a v : Byte) (s : State) :
    memWrite a v s = ((drawAt s 0).full 3,
      { s with x := { s.x with status := txnStatus 3 (drawAt s 0) s.x.status }, spi := txnSpi (drawAt s 0) s.spi,
               env := envAfter 1 s.env, trace := s.trace ++ txnEvents (frameWrite a v) (drawAt s 0) }) := by
  unfold memWrite
  rw [txn_eq]
  by_cases h : ((drawAt s 0).reply 3).length = 3 <;> simp [writeOk, Draw.full, h]

/-- The answers to come after `n` transactions. -/
@[simp] theorem draw_envAfter (e : Env) (n k : Nat) : (envAfter n e).draw k = e.draw (n + k) := by
  simp [Env.draw, envAfter, Nat.add_assoc]

@[simp] theorem envAfter_envAfter (m n : Nat) (e : Env) : envAfter m (envAfter n e) = envAfter (n + m) e := by
  simp [envAfter, Nat.add_assoc]

@[simp] theorem envAfter_zero (e : Env) : envAfter 0 e = e := by simp [envAfter]

/-- A transaction sets BUSUNAV or XFERERR or nothing (R131). -/
theorem statusGet_txnStatus (f : StatusField) (N : Nat) (d : Draw) (st : Half) :
    statusGet f (txnStatus N d st) =
      ((decide (f = .busunav) && !d.avail) || (decide (f = .xfererr) && d.avail && !d.full N) || statusGet f st) := by
  have hl : (d.reply N).length ≤ N := by unfold Draw.reply; split <;> simp
  unfold txnStatus
  cases ha : d.avail
  · by_cases hf : f = .busunav <;> simp [statusGet_set, hf]
  · by_cases h : (d.reply N).length < N
    · have hn : ¬ (d.reply N).length = N := by omega
      by_cases hf : f = .xfererr <;> simp [h, hn, Draw.full, statusGet_set, hf]
    · have hn : (d.reply N).length = N := by omega
      simp [hn, Draw.full]

@[simp] theorem nsampGet_txnStatus (N : Nat) (d : Draw) (st : Half) : nsampGet (txnStatus N d st) = nsampGet st := by
  unfold txnStatus
  split
  · split <;> simp
  · simp

@[simp] theorem statusReserved_txnStatus (N : Nat) (d : Draw) (st : Half) :
    statusReserved (txnStatus N d st) = statusReserved st := by
  unfold txnStatus
  split
  · split <;> simp
  · simp

/-- A read yields the sentinel exactly when it was not full (R141). -/
theorem Draw.value_eq_neg_one (n : Nat) (d : Draw) : d.value n = -1 ↔ d.full (n + 1) = false := by
  unfold Draw.value
  cases d.full (n + 1) <;> simp

/-- The value of a full read is below `256^n` (R141). -/
theorem Draw.value_range (n : Nat) (d : Draw) (h : d.full (n + 1) = true) : 0 ≤ d.value n ∧ d.value n < 256 ^ n := by
  unfold Draw.value
  simp only [h, if_true]
  have h1 : (d.reply (n + 1)).tail.length = n := by
    have : (d.reply (n + 1)).length = n + 1 := by simpa [Draw.full] using h
    simp [this]
  have h2 := bigEndian_lt (d.reply (n + 1)).tail
  rw [h1] at h2
  exact ⟨by omega, by exact_mod_cast h2⟩

end Sys2Proof.Machine
end

