-- ==== Sys2Proof/Laws/Loader.lean ====
section
/-! SUPPORT. The load loop of INIT in terms of the environment's answers (`42_calibration_loader.md` R160, R161): one closed form of
everything it does, for any list of entries. -/

namespace Sys2Proof.Machine

/-- The register file after the load of `es`, from the answers `D 0`, `D 1`, … (R160, R163). -/
def loadRegs : List LoadEntry → (Nat → Draw) → RegFile → RegFile
  | [], _, x => x
  | e :: es, D, x =>
    loadRegs es (fun k => D (k + 1))
      (RegFile.write { x with status := txnStatus (e.n + 1) (D 0) x.status } e.reg (e.cast.apply ((D 0).value e.n)))

/-- Whether a read of the load failed (R160 `err`). -/
def loadErr : List LoadEntry → (Nat → Draw) → Bool
  | [], _ => false
  | e :: es, D => !(D 0).full (e.n + 1) || loadErr es (fun k => D (k + 1))

/-- The bus activity of the load (R161). -/
def loadEvents : List LoadEntry → (Nat → Draw) → List Event
  | [], _ => []
  | e :: es, D => txnEvents (frameRead e.addr e.n) (D 0) ++ loadEvents es (fun k => D (k + 1))

/-- The SPI master after the load. -/
def loadSpi : List LoadEntry → (Nat → Draw) → Spi → Spi
  | [], _, sp => sp
  | _ :: es, D, sp => loadSpi es (fun k => D (k + 1)) (txnSpi (D 0) sp)

/-- The whole load loop. -/
theorem loadAll_eq (es : List LoadEntry) (err : Bool) (s : State) :
    loadAll es (err, s) = (err || loadErr es (drawAt s),
      { s with x := loadRegs es (drawAt s) s.x, spi := loadSpi es (drawAt s) s.spi, env := envAfter es.length s.env,
               trace := s.trace ++ loadEvents es (drawAt s) }) := by
  induction es generalizing err s with
  | nil => simp [loadAll, loadErr, loadRegs, loadSpi, loadEvents]
  | cons e es ih =>
    unfold loadAll at ih ⊢
    rw [List.foldl_cons]
    have h1 : loadOne (err, s) e = (err || !(drawAt s 0).full (e.n + 1),
        { s with x := RegFile.write { s.x with status := txnStatus (e.n + 1) (drawAt s 0) s.x.status } e.reg
                        (e.cast.apply ((drawAt s 0).value e.n)),
                 spi := txnSpi (drawAt s 0) s.spi, env := envAfter 1 s.env,
                 trace := s.trace ++ txnEvents (frameRead e.addr e.n) (drawAt s 0) }) := by
      have hv : ((drawAt s 0).value e.n == -1) = !(drawAt s 0).full (e.n + 1) := by
        rw [Bool.eq_iff_iff, beq_iff_eq, Draw.value_eq_neg_one, Bool.not_eq_true']
      simp only [loadOne, storeLoaded, memRead_eq, hv, State.writeReg]
    rw [h1, ih]
    have hd : (envAfter 1 s.env).draw = fun k => s.env.draw (k + 1) := by
      funext k
      rw [draw_envAfter, Nat.add_comm]
    have hs : ∀ t : State, drawAt t = t.env.draw := fun _ => rfl
    simp only [hs, hd, loadErr, loadRegs, loadSpi, loadEvents, List.append_assoc, Bool.or_assoc, envAfter_envAfter, List.length_cons,
      Nat.add_comm 1 es.length]

/-- A load leaves the registers it does not name, but for STATUS. -/
theorem loadRegs_read (es : List LoadEntry) (D : Nat → Draw) (x : RegFile) (r : Reg) (h1 : r ≠ .status)
    (h2 : ∀ e ∈ es, e.reg ≠ r) : (loadRegs es D x).read r = x.read r := by
  induction es generalizing D x with
  | nil => rfl
  | cons e es ih =>
    rw [loadRegs, ih _ _ fun e' he' => h2 e' (List.mem_cons_of_mem _ he'),
      RegFile.read_write_ne _ (h2 e (List.mem_cons_self ..)).symm]
    cases r <;> first | rfl | exact absurd rfl h1

/-- What the load does to STATUS: one transaction's flags after another (R131). -/
theorem loadRegs_status (e : LoadEntry) (es : List LoadEntry) (D : Nat → Draw) (x : RegFile) (he : e.reg ≠ .status) :
    (loadRegs (e :: es) D x) =
      loadRegs es (fun k => D (k + 1))
        { x.write e.reg (e.cast.apply ((D 0).value e.n)) with status := txnStatus (e.n + 1) (D 0) x.status } := by
  rw [loadRegs]
  cases h : e.reg <;> first | exact absurd h he | rfl

/-- The SPI master after the load: at rest once a session was held. -/
theorem loadSpi_eq (es : List LoadEntry) (D : Nat → Draw) (sp : Spi) :
    loadSpi es D sp = if (List.range es.length).any (fun k => (D k).avail) then Spi.idle else sp := by
  induction es generalizing D sp with
  | nil => simp [loadSpi]
  | cons e es ih =>
    rw [loadSpi, ih, List.length_cons, List.range_succ_eq_map, List.any_cons, List.any_map]
    unfold txnSpi
    cases h : (D 0).avail <;> simp [Function.comp_def]

/-- STATUS at the end of INIT (R160, R164, R165). -/
def initStatus (err : Bool) (x : RegFile) : Half :=
  statusSet .initd true
    (let st := if x.chipid ≠ Config.chipIdExpected then statusSet .idwarn true x.status else x.status
     if err then statusSet .calerr true st else st)

/-- The end of INIT: STATUS and the response, nothing else. -/
theorem initFinish_eq (err : Bool) (s : State) :
    initFinish err s = respondStatus .ok { s with x := { s.x with status := initStatus err s.x } } := by
  unfold initFinish initStatus
  by_cases h : s.x.chipid = Config.chipIdExpected <;> cases err <;> simp [h, raise, Condition.field, State.setFlag]

/-- The whole of INIT (R160). -/
theorem execInit_eq (s : State) :
    exec .init s = .next (respondStatus .ok
      (let x := loadRegs (loadOrder s.params) (drawAt s) (initStart s).x
       { s with x := { x with status := initStatus (loadErr (loadOrder s.params) (drawAt s)) x },
                spi := loadSpi (loadOrder s.params) (drawAt s) s.spi, env := envAfter 13 s.env,
                trace := s.trace ++ loadEvents (loadOrder s.params) (drawAt s) })) := by
  simp only [exec, execInit, loadAll_eq, Bool.false_or, initFinish_eq]
  rfl

/-- A register other than STATUS does not depend on STATUS. -/
theorem RegFile.read_status (x : RegFile) (st : Half) (r : Reg) (h : r ≠ .status) :
    RegFile.read { x with status := st } r = x.read r := by
  cases r <;> first | rfl | exact absurd rfl h

/-- The load leaves UT, TEMP and PRESS. -/
theorem loadRegs_readings (p : Params) (D : Nat → Draw) (x : RegFile) :
    (loadRegs (loadOrder p) D x).ut = x.ut ∧ (loadRegs (loadOrder p) D x).temp = x.temp ∧
      (loadRegs (loadOrder p) D x).press = x.press := ⟨rfl, rfl, rfl⟩

end Sys2Proof.Machine
end

