-- ==== Sys2Proof/Laws/Measurement.lean ====
section
/-! SUPPORT. The bus part of the measurements in terms of the environment's answers (`43_measurement.md` R182, R186, R188). -/

namespace Sys2Proof.Machine

/-- The bus part of phase T (R182 steps T0 to T2). -/
theorem sampleT_eq (s : State) :
    sampleT s = ((drawAt s 0).full 3, (drawAt s 1).value 2,
      { s with x := { s.x with status := txnStatus 3 (drawAt s 1) (txnStatus 3 (drawAt s 0) s.x.status) },
               spi := txnSpi (drawAt s 1) (txnSpi (drawAt s 0) s.spi), env := envAfter 2 s.env,
               trace := s.trace ++ (txnEvents (frameWrite s.params.aCtrlMeasW s.params.tempCmd) (drawAt s 0) ++
                 [.evWait Config.waitTUs] ++ txnEvents (frameRead s.params.aDataR 2) (drawAt s 1)) }) := by
  unfold sampleT
  rw [memWrite_eq]
  simp only [memRead_eq, wait, State.emit, drawAt, draw_envAfter, envAfter_envAfter, List.append_assoc]

/-- One pressure sample (R188 steps P(i,0) to P(i,2)). -/
theorem sampleP_eq (s : State) :
    sampleP s = ((drawAt s 0).full 3, (drawAt s 1).value 3,
      { s with x := { s.x with status := txnStatus 4 (drawAt s 1) (txnStatus 3 (drawAt s 0) s.x.status) },
               spi := txnSpi (drawAt s 1) (txnSpi (drawAt s 0) s.spi), env := envAfter 2 s.env,
               trace := s.trace ++ (txnEvents (frameWrite s.params.aCtrlMeasW (pressByte s.params)) (drawAt s 0) ++
                 [.evWait Config.waitPUs] ++ txnEvents (frameRead s.params.aDataR 3) (drawAt s 1)) }) := by
  unfold sampleP
  rw [memWrite_eq]
  simp only [memRead_eq, wait, State.emit, drawAt, draw_envAfter, envAfter_envAfter, List.append_assoc]

/-- Whether a temperature sample is valid (R183): both transactions full. -/
theorem valid_iff (w : Bool) (n : Nat) (d : Draw) : (w && d.value n != -1) = (w && d.full (n + 1)) := by
  have h := Draw.value_eq_neg_one n d
  cases hf : d.full (n + 1)
  · rw [h.mpr hf]; simp
  · have : d.value n ≠ -1 := fun e => by rw [h.mp e] at hf; cases hf
    simp [this]

/-- The update of UT in terms of the answers (R183). -/
theorem storeUt_eq (w : Bool) (d : Draw) (s : State) :
    storeUt w (d.value 2) s = if w && d.full 3 then s.writeReg .ut (d.value 2) else s.setFlag .utstale true := by
  unfold storeUt
  rw [valid_iff]
  rfl

/-- The recording of a sample in terms of the answers (R188, R189). -/
theorem recordSample_eq (w : Bool) (d : Draw) (samples : List Nat) :
    recordSample w (d.value 3) samples = if w && d.full 4 then samples ++ [rawSample (d.value 3)] else samples := by
  unfold recordSample
  rw [valid_iff]

/-- A raw sample is the 24-bit value without its five low bits (R189). -/
theorem rawSample_eq (v : Int) : rawSample v = v.toNat / 32 := by
  simp [rawSample, Config.mode, Nat.shiftRight_eq_div_pow]

/-- The arithmetic of phase T: what it leaves in the registers (R182, R185). -/
theorem compensateT_eq (s : State) :
    compensateT s = match calcTOf s.x with
      | none => (none, s.setFlag .arith true)
      | some (b5, t) => (some b5, (s.writeReg .temp t).setFlag .tvalid true) := rfl

/-- Phase T changes the register file, the SPI master, the environment and the trace only. -/
theorem phaseT_frame (s : State) :
    (phaseT s).2.params = s.params ∧ (phaseT s).2.seq = s.seq ∧ (phaseT s).2.work = s.work ∧ (phaseT s).2.rsp = s.rsp ∧
      (phaseT s).2.host = s.host ∧ (phaseT s).2.env = envAfter 2 s.env ∧
      (phaseT s).2.spi = txnSpi (drawAt s 1) (txnSpi (drawAt s 0) s.spi) ∧
      (phaseT s).2.trace = s.trace ++ (txnEvents (frameWrite s.params.aCtrlMeasW s.params.tempCmd) (drawAt s 0) ++
        [.evWait Config.waitTUs] ++ txnEvents (frameRead s.params.aDataR 2) (drawAt s 1)) := by
  unfold phaseT
  rw [sampleT_eq]
  simp only [storeUt_eq, compensateT_eq]
  split <;> (split <;> simp)

/-- The register file phase T gives `CALC_T` (R183): UT and the two transport flags updated, or UTSTALE set. -/
def regsT (s : State) : RegFile :=
  let st := txnStatus 3 (drawAt s 1) (txnStatus 3 (drawAt s 0) s.x.status)
  if (drawAt s 0).full 3 && (drawAt s 1).full 3 then
    { s.x with status := st, ut := BitVec.ofInt 16 ((drawAt s 1).value 2) }
  else { s.x with status := statusSet .utstale true st }

/-- The registers after phase T, and what it returns (R182, R185). -/
theorem phaseT_regs (s : State) :
    (phaseT s).1 = (calcTOf (regsT s)).map Prod.fst ∧
      (phaseT s).2.x = match calcTOf (regsT s) with
        | none => { regsT s with status := statusSet .arith true (regsT s).status }
        | some (_, t) => { regsT s with temp := BitVec.ofInt 32 t, status := statusSet .tvalid true (regsT s).status } := by
  have hx : ∀ t : State, t.x = { s.x with status := txnStatus 3 (drawAt s 1) (txnStatus 3 (drawAt s 0) s.x.status) } →
      (storeUt ((drawAt s 0).full 3) ((drawAt s 1).value 2) t).x = regsT s := by
    intro t ht
    rw [storeUt_eq]
    unfold regsT
    cases (drawAt s 0).full 3 <;> cases (drawAt s 1).full 3 <;> simp [ht, RegFile.write]
  unfold phaseT
  rw [sampleT_eq]
  simp only
  generalize hu : storeUt ((drawAt s 0).full 3) ((drawAt s 1).value 2) _ = u
  have hux : u.x = regsT s := by rw [← hu]; exact hx _ rfl
  rw [compensateT_eq, hux]
  cases calcTOf (regsT s) with
  | none => exact ⟨rfl, by rw [State.setFlag_x, hux]⟩
  | some r => exact ⟨rfl, by rw [State.setFlag_x, State.writeReg_x, hux]; rfl⟩

/-- The samples recorded by `n` more iterations from the answers `D 0`, `D 1`, … (R188, R189). -/
def loopSamples : Nat → (Nat → Draw) → List Nat → List Nat
  | 0, _, acc => acc
  | n + 1, D, acc =>
    loopSamples n (fun k => D (k + 2)) (if (D 0).full 3 && (D 1).full 4 then acc ++ [rawSample ((D 1).value 3)] else acc)

/-- STATUS after `n` more iterations (R131). -/
def loopStatus : Nat → (Nat → Draw) → Half → Half
  | 0, _, st => st
  | n + 1, D, st => loopStatus n (fun k => D (k + 2)) (txnStatus 4 (D 1) (txnStatus 3 (D 0) st))

/-- The SPI master after `n` more iterations. -/
def loopSpi : Nat → (Nat → Draw) → Spi → Spi
  | 0, _, sp => sp
  | n + 1, D, sp => loopSpi n (fun k => D (k + 2)) (txnSpi (D 1) (txnSpi (D 0) sp))

/-- The events of `n` more iterations (R188). -/
def loopEvents (p : Params) : Nat → (Nat → Draw) → List Event
  | 0, _ => []
  | n + 1, D =>
    txnEvents (frameWrite p.aCtrlMeasW (pressByte p)) (D 0) ++ [.evWait Config.waitPUs] ++
      txnEvents (frameRead p.aDataR 3) (D 1) ++ loopEvents p n (fun k => D (k + 2))

/-- The loop of phase P from any state with any samples already recorded (R186, R188). -/
theorem samplesP_eq (n : Nat) (acc : List Nat) (s : State) :
    samplesP n (acc, s) = (loopSamples n (drawAt s) acc,
      { s with x := { s.x with status := loopStatus n (drawAt s) s.x.status }, spi := loopSpi n (drawAt s) s.spi,
               env := envAfter (2 * n) s.env, trace := s.trace ++ loopEvents s.params n (drawAt s) }) := by
  have hs : ∀ t : State, drawAt t = t.env.draw := fun _ => rfl
  induction n generalizing acc s with
  | zero => simp [samplesP, loopSamples, loopStatus, loopSpi, loopEvents]
  | succ n ih =>
    have hd : (envAfter 2 s.env).draw = fun k => s.env.draw (k + 2) := by
      funext k
      rw [draw_envAfter, Nat.add_comm]
    simp only [samplesP, sampleP_eq, recordSample_eq, ih]
    simp only [hs, hd, loopSamples, loopStatus, loopSpi, loopEvents, List.append_assoc, envAfter_envAfter]
    rw [show 2 + 2 * n = 2 * (n + 1) by omega]

end Sys2Proof.Machine
end

