-- ==== Sys2Proof/Laws/PerInstr.lean ====
section
/-! SUPPORT. A family of facts about every command as syntax: the word of a command fits the command's row of the match and mask
table (`30_encoding.md` R102). -/

namespace Sys2Proof.Laws.EncodeFitsRow

/-- The word of `i` fits the row of `i`. -/
def Statement (i : Instr) : Prop := (opRow i).fits (encode i) = true

theorem init : Statement .init := by unfold Statement; decide
theorem meast : Statement .meast := by unfold Statement; decide
theorem measp : Statement .measp := by unfold Statement; decide
theorem get (r : Byte) : Statement (.get r) := beq_iff_eq.mpr (layWord_maskA 0x4 r)
theorem rdb (a : Byte) : Statement (.rdb a) := beq_iff_eq.mpr (layWord_maskA 0x8 a)
theorem rdw (a : Byte) : Statement (.rdw a) := beq_iff_eq.mpr (layWord_maskA 0x9 a)
theorem rdt (a : Byte) : Statement (.rdt a) := beq_iff_eq.mpr (layWord_maskA 0xA a)
theorem wrr (a d : Byte) : Statement (.wrr a d) := beq_iff_eq.mpr (layWord_maskAD 0xB a d)

end Sys2Proof.Laws.EncodeFitsRow
end

