-- ==== Sys2Proof/Laws/Sequencer.lean ====
section
/-! SUPPORT. Small facts about the step lists (`10_state.md` R40, R41) and ways to show the invariant of `Safety.lean` of a state
between commands and of a state that enters a step. -/

namespace Sys2Proof.Machine

/-- The frame of a step depends on the step, the command and the parameters alone. -/
theorem frameOf_congr {s t : State} (h1 : t.seq = s.seq) (h2 : t.work.cmd = s.work.cmd) (h3 : t.params = s.params) :
    frameOf t = frameOf s := by
  unfold frameOf; rw [h1, h2, h3]

/-- A wait step sends no frame (R128). -/
theorem frameOf_waiting {s : State} (h : s.seq.waiting = true) : frameOf s = none := by
  unfold frameOf
  cases hs : s.seq with
  | t n =>
    have hn : n = 1 := by simpa [hs, Seq.waiting] using h
    simp [hn]
  | p n j =>
    have hj : j = 1 := by simpa [hs, Seq.waiting] using h
    simp [hj]
  | _ => simp [hs, Seq.waiting] at h

/-- Running `m` events and then `n` more. -/
theorem seqTicks_add (m n : Nat) (s : State) : seqTicks (m + n) s = seqTicks n (seqTicks m s) := by
  induction m generalizing s with
  | zero => simp [seqTicks]
  | succ m ih => rw [Nat.succ_add]; exact ih _

/-- A sample taken from what a transaction returned has nineteen bits (R189). -/
theorem rawSample_readValue_lt (r : Nat × List Byte) (hr : r.2.length = r.1) : rawSample (readValue 3 r) < 2 ^ 19 := by
  rw [show rawSample (readValue 3 r) = (readValue 3 r).toNat / 32 by simp [rawSample, Config.mode, Nat.shiftRight_eq_div_pow]]
  unfold readValue
  split
  · simp
  · rename_i h
    have h1 : r.1 = 4 := by simpa using h
    have h2 := bigEndian_lt (r.2.drop 1)
    rw [List.length_drop, hr, h1] at h2
    simp at h2 ⊢
    omega

/-- A state between commands, or in the cycle of a response, with its pins at rest meets the invariant. -/
theorem inv_of_rest (s : State) (h1 : s.seq = .idle ∨ s.seq = .respond) (hr : s.rsp.isSome = (s.seq == .respond))
    (h2 : s.work = Work.idle) (h3 : s.spi = Spi.idle) (h4 : s.env.miso = [])
    (h5 : statusReserved s.x.status = 0) (h6 : s.flag .tvalid = true → s.flag .initd = true)
    (h7 : s.flag .pvalid = true → s.flag .tvalid = true) (h8 : s.flag .mfail = true → s.nsamp = 0) : Inv s := by
  have hp : s.work.phase = .closed := by rw [h2]; rfl
  have hm : s.seq.measuring = false := by rcases h1 with h | h <;> rw [h] <;> rfl
  have hq : s.seq.pressing = false := by rcases h1 with h | h <;> rw [h] <;> rfl
  constructor
  case reservedZero => exact h5
  case idleWork => exact fun _ => h2
  case rspCycle => exact hr
  case cmdOfSeq => rcases h1 with h | h <;> rw [h, h2] <;> rfl
  case closedQuiet => exact fun _ => ⟨h3, h4⟩
  case timerInWait => simp [h2, Work.idle]
  case rxBound => simp [hp, h3, Spi.idle]
  case tvalidInitd => exact h6
  case pvalidTvalid => exact h7
  case mfailNone => exact h8
  all_goals simp [hp, hm, hq]

/-- Outside the cycle of a response the response port is low (R103). -/
theorem Inv.rsp_eq_none {s : State} (h : Inv s) (hs : s.seq ≠ .respond) : s.rsp = none := by
  have hc := h.rspCycle
  rw [beq_eq_false_iff_ne.mpr hs] at hc
  exact Option.isSome_eq_false_iff.mp hc |> Option.isNone_iff_eq_none.mp

/-- The end of a response cycle keeps the invariant. -/
theorem inv_endResponse (s : State) (h : Inv s) (hs : s.seq = .respond) : Inv (endResponse s) := by
  have hw := h.idleWork (.inr hs)
  obtain ⟨q1, q2⟩ := h.closedQuiet (by rw [hw]; rfl)
  exact inv_of_rest _ (.inl rfl) rfl hw q1 q2 h.reservedZero h.tvalidInitd h.pvalidTvalid h.mfailNone

end Sys2Proof.Machine
end

