-- ==== Sys2Proof/Tests/Slice0.lean ====
section
/-! SUPPORT. Tests of single steps against the vectors of `95_test_vectors.md`, and a witness for every statement that has
hypotheses. Every expected value is the spec's. -/

namespace Sys2Proof.Tests

open Sys2Proof Sys2Proof.Machine

/-! ## Helpers -/

/-- An answer of the environment with the bus available. -/
def got (bs : List Byte) : Draw := ⟨true, bs⟩

/-- The bus is not available. -/
def dead : Draw := ⟨false, []⟩

/-- A state with the coming answers of the environment listed. -/
def answering (ds : List Draw) (s : State) : State := { s with env := { s.env with draws := ds } }

/-- The state a command leaves. -/
def after (i : Instr) (s : State) : State :=
  match exec i s with
  | .next t => t
  | .fault _ => s
  | .refused _ => s

/-- The state a step leaves. -/
def stepped (s : State) : Option State :=
  match step s with
  | .next t => some t
  | .fault _ => none
  | .refused _ => none

/-- The end state of program P1: the calibration set GK-CAL, INITD set. -/
def calibrated : State :=
  { State.reset with x :=
    { RegFile.reset with status := 0x0001, chipid := 0x55, chipver := 0x01, ac1 := 0x0198, ac2 := 0xFFB8, ac3 := 0xC7D1, ac4 := 0x7FE5,
                         ac5 := 0x7FF5, ac6 := 0x5A71, b1 := 0x182E, b2 := 0x0004, mb := 0x8000, mc := 0xDDF9, md := 0x0B34 } }

/-- `calibrated` with the coefficients of program P7. -/
def degenerate : State := { calibrated with x := { calibrated.x with ac5 := 0x8000, ac6 := 0x0001, md := 0x0001 } }

/-- The answers of program P1's INIT. -/
def initAnswers : List Draw :=
  [got [0, 0x01, 0x98], got [0, 0xFF, 0xB8], got [0, 0xC7, 0xD1], got [0, 0x7F, 0xE5], got [0, 0x7F, 0xF5], got [0, 0x5A, 0x71],
   got [0, 0x18, 0x2E], got [0, 0x00, 0x04], got [0, 0x80, 0x00], got [0, 0xDD, 0xF9], got [0, 0x0B, 0x34], got [0, 0x55], got [0, 0x01]]

/-- The answers of program P3's MEASP. -/
def pressAnswers : List Draw :=
  [got [0, 0, 0], got [0, 0x6C, 0xFA], got [0, 0, 0], got [0, 0x5D, 0x23, 0x00], got [0, 0, 0], got [0, 0x5D, 0x23, 0x40],
   got [0, 0, 0], got [0, 0x5D, 0x23, 0xDF]]

/-- The answers of program P5's MEASP: three failed samples. -/
def failAnswers : List Draw :=
  [got [0xFF, 0xFF, 0xFF], got [0xFF, 0x75, 0x30], dead, got [0xFF, 0x5D, 0x24, 0x00], got [0xFF, 0xFF, 0xFF], got [0xFF, 0x5D],
   got [0xFF], got [0xFF, 0x5D, 0x24, 0x00]]

/-- A state that offers the word `w` to the idle block. -/
def offering (w : Word) (s : State) : State := { s with host := [⟨false, some w⟩] }

/-- A busy state: RDB 0xD0 with its session open, between two bytes. -/
def busyState : State := seqTick (start (.rdb 0xD0) (answering [got [0x3C, 0x55]] State.reset))

/-- A busy state: MEAST in its wait (step T1), the bus having been unavailable. -/
def waitState : State := seqTick (seqTick (start .meast (answering [dead] calibrated)))

/-! ## Well-formedness: GET of an assigned register number, and nothing else to check -/

theorem test_wf_get_reserved_low : (Instr.get 0x06).wellFormed = false ∧ (Instr.get 0x0F).wellFormed = false := by decide
theorem test_wf_get_reserved_high : (Instr.get 0x1B).wellFormed = false ∧ (Instr.get 0xFF).wellFormed = false := by decide
theorem test_wf_get_assigned : (Instr.get 0x00).wellFormed = true ∧ (Instr.get 0x05).wellFormed = true ∧
    (Instr.get 0x10).wellFormed = true ∧ (Instr.get 0x1A).wellFormed = true := by decide
theorem test_wf_others : (Instr.wrr 0xFF 0xFF).wellFormed = true ∧ (Instr.rdb 0x00).wellFormed = true := by decide

/-! ## Decoding: words written out bit by bit from R100 and R101 (op, z, a, d) -/

theorem test_decode_init : decode (0b0001#4 ++ 0b000000000000#12 ++ 0b00000000#8 ++ 0b00000000#8) = .ok .init := by decide
theorem test_decode_meast : decode (0b0010#4 ++ 0b000000000000#12 ++ 0b00000000#8 ++ 0b00000000#8) = .ok .meast := by decide
theorem test_decode_measp : decode (0b0011#4 ++ 0b000000000000#12 ++ 0b00000000#8 ++ 0b00000000#8) = .ok .measp := by decide
theorem test_decode_get : decode (0b0100#4 ++ 0b000000000000#12 ++ 0b00010011#8 ++ 0b00000000#8) = .ok (.get 0x13) := by decide
theorem test_decode_rdb : decode (0b1000#4 ++ 0b000000000000#12 ++ 0b11010000#8 ++ 0b00000000#8) = .ok (.rdb 0xD0) := by decide
theorem test_decode_rdw : decode (0b1001#4 ++ 0b000000000000#12 ++ 0b10101010#8 ++ 0b00000000#8) = .ok (.rdw 0xAA) := by decide
theorem test_decode_rdt : decode (0b1010#4 ++ 0b000000000000#12 ++ 0b11110110#8 ++ 0b00000000#8) = .ok (.rdt 0xF6) := by decide
theorem test_decode_wrr : decode (0b1011#4 ++ 0b000000000000#12 ++ 0b01110100#8 ++ 0b00101110#8) = .ok (.wrr 0x74 0x2E) := by decide

/-- V-E1, V-E12, V-E13. -/
theorem test_decode_reserved_op : [0x00000000, 0x50000000, 0x60000000, 0x70000000, 0xC0000000, 0xD0000000, 0xE0000000, 0xF0000000].all
    (fun w : Word => decode w == .error .reservedOp) = true := by decide
/-- V-E5, V-E14. -/
theorem test_decode_z : decode 0x30010000 = .error .zNotZero ∧ decode 0x80D00000 = .error .zNotZero := by decide
/-- V-E3, V-E4, V-E7, V-E17. -/
theorem test_decode_operand : decode 0x10000100 = .error .operandNotZero ∧ decode 0x20000001 = .error .operandNotZero ∧
    decode 0x40000101 = .error .operandNotZero ∧ decode 0x4000FF01 = .error .operandNotZero := by decide
/-- V-E18: WRR has no operand that must be zero. -/
theorem test_decode_wrr_full : decode 0xB000FFFF = .ok (.wrr 0xFF 0xFF) ∧ decode 0xB0000000 = .ok (.wrr 0 0) := by decide
/-- R110: a listing line. -/
theorem test_listing : (Instr.wrr 0x74 0x2E).listing = "WRR 116, 46" ∧ Instr.init.listing = "INIT" := by decide
/-- The table's numbering of bits is the word's. -/
theorem test_table_word : decodeTableWord 32 0xB000742E = some (.wrr 0x74 0x2E) ∧ decodeTableWord 32 0x10000100 = none := by decide

/-! ## Steps from reset: a word offered by the host -/

/-- V-E2, with every answer "bus not available" (program P6 command 10). -/
theorem test_step_runs_word : (stepped ((answering (List.replicate 13 dead) State.reset).withFetchWord 32 0x10000000)).map State.rsp =
    some (some ⟨.ok, 0x00000107⟩) := by decide +kernel
/-- V-E8, V-E1: BADREG and ILLEGAL, nothing else changed. -/
theorem test_step_refusals :
    stepped (State.reset.withFetchWord 32 0x40000600) = some { State.reset with seq := .respond, rsp := some ⟨.badReg, 0⟩, trace := [.evRsp .badReg 0] } ∧
    stepped (State.reset.withFetchWord 32 0x00000000) = some { State.reset with seq := .respond, rsp := some ⟨.illegal, 0⟩, trace := [.evRsp .illegal 0] } := by
  decide

/-! ## RDB, RDW, RDT, WRR -/

/-- V-R1: value, trace, no flag. -/
theorem test_rdb : (after (.rdb 0xD0) (answering [got [0x3C, 0x55]] State.reset)).trace =
    [.evOpen true, .evXfer [0xD0, 0x00] 2 [0x3C, 0x55], .evClose, .evRsp .ok 0x00000055] ∧
    (after (.rdb 0xD0) (answering [got [0x3C, 0x55]] State.reset)).x = RegFile.reset := by decide
/-- V-R2, V-R4: 255 is a value; a dead bus is XFERFAIL with BUSUNAV. -/
theorem test_rdb_ff_and_dead : (after (.rdb 0xD0) (answering [got [0x00, 0xFF]] State.reset)).rsp = some ⟨.ok, 0x000000FF⟩ ∧
    (after (.rdb 0xD0) (answering [dead] State.reset)).rsp = some ⟨.xferFail, 0xFFFFFFFF⟩ ∧
    (after (.rdb 0xD0) (answering [dead] State.reset)).x.status = 0x0100 := by decide
/-- V-R5, V-R6. -/
theorem test_rdw : (after (.rdw 0xAA) (answering [got [0x00, 0x01, 0x98]] State.reset)).rsp = some ⟨.ok, 0x00000198⟩ ∧
    (after (.rdw 0xAA) (answering [got [0x00, 0xFF, 0xB8]] State.reset)).rsp = some ⟨.ok, 0x0000FFB8⟩ := by decide
/-- V-R7. -/
theorem test_rdw_short : (after (.rdw 0xAA) (answering [got [0x00, 0x01]] State.reset)).rsp = some ⟨.xferFail, 0xFFFFFFFF⟩ ∧
    (after (.rdw 0xAA) (answering [got [0x00, 0x01]] State.reset)).x.status = 0x0200 := by decide
/-- V-R8. -/
theorem test_rdt : (after (.rdt 0xF6) (answering [got [0xFF, 0x5D, 0x23, 0x00]] State.reset)).rsp = some ⟨.ok, 0x005D2300⟩ := by decide
/-- V-R9. -/
theorem test_rdt_short : (after (.rdt 0xF6) (answering [got [0xFF, 0x5D, 0x23]] State.reset)).rsp = some ⟨.xferFail, 0xFFFFFFFF⟩ := by
  decide
/-- V-R10. -/
theorem test_wrr : (after (.wrr 0x74 0x2E) (answering [got [0x00, 0x00, 0x00]] State.reset)).trace =
    [.evOpen true, .evXfer [0x74, 0x2E, 0x00] 3 [0x00, 0x00, 0x00], .evClose, .evRsp .ok 0x00000000] := by decide
/-- V-R11, with V-X4: a short count of zero after a good OPEN is closed. -/
theorem test_wrr_short : (after (.wrr 0x74 0xF4) (answering [got []] State.reset)).trace =
    [.evOpen true, .evXfer [0x74, 0xF4, 0x00] 0 [], .evClose, .evRsp .xferFail 0xFFFFFFFF] ∧
    (after (.wrr 0x74 0xF4) (answering [got []] State.reset)).x.status = 0x0200 := by decide

/-! ## GET -/

/-- V-G2, V-G3. -/
theorem test_get_reset : (after (.get 0x05) State.reset).rsp = some ⟨.ok, 0x00006720⟩ ∧
    (after (.get 0x02) State.reset).rsp = some ⟨.noValue, 0⟩ := by decide
/-- V-G9, V-G10, V-E9. -/
theorem test_get_coefficients : (after (.get 0x18) calibrated).rsp = some ⟨.ok, 0xFFFF8000⟩ ∧
    (after (.get 0x13) calibrated).rsp = some ⟨.ok, 0x00007FE5⟩ ∧ (after (.get 0x1B) calibrated).rsp = some ⟨.badReg, 0⟩ := by decide

/-! ## INIT -/

/-- Program P1. -/
theorem test_init : (after .init (answering initAnswers State.reset)).x = calibrated.x ∧
    (after .init (answering initAnswers State.reset)).rsp = some ⟨.ok, 0x00000001⟩ ∧
    (after .init (answering initAnswers State.reset)).trace.filterMap (fun e =>
      match e with | .evXfer out _ _ => some out | _ => none) =
      [[0xAA, 0, 0], [0xAC, 0, 0], [0xAE, 0, 0], [0xB0, 0, 0], [0xB2, 0, 0], [0xB4, 0, 0], [0xB6, 0, 0], [0xB8, 0, 0], [0xBA, 0, 0],
       [0xBC, 0, 0], [0xBE, 0, 0], [0xD0, 0], [0xD1, 0]] := by decide +kernel
/-- Program P6 commands 10 to 13: every read failed. -/
theorem test_init_dead : (after .init (answering (List.replicate 13 dead) State.reset)).rsp = some ⟨.ok, 0x00000107⟩ ∧
    (after .init (answering (List.replicate 13 dead) State.reset)).x.ac1 = 0xFFFF ∧
    (after .init (answering (List.replicate 13 dead) State.reset)).x.chipid = 0xFF := by decide +kernel

/-! ## MEAST and MEASP -/

/-- Program P2. -/
theorem test_meast : (after .meast (answering [got [0, 0, 0], got [0, 0x6C, 0xFA]] calibrated)).trace =
    [.evOpen true, .evXfer [0x74, 0x2E, 0x00] 3 [0, 0, 0], .evClose, .evWait 4500,
     .evOpen true, .evXfer [0xF6, 0x00, 0x00] 3 [0, 0x6C, 0xFA], .evClose, .evRsp .ok 0x00000009] ∧
    (after .meast (answering [got [0, 0, 0], got [0, 0x6C, 0xFA]] calibrated)).x.temp = 150 := by decide +kernel
/-- V-E15. -/
theorem test_meast_notinit : (after .meast State.reset).rsp = some ⟨.notInit, 0⟩ := by decide
/-- Program P3. -/
theorem test_measp : (after .measp (answering pressAnswers calibrated)).x.press = 69962 ∧
    (after .measp (answering pressAnswers calibrated)).rsp = some ⟨.ok, 0x00000C19⟩ := by decide +kernel
/-- Program P7: ARITH after phase T, two transactions. -/
theorem test_measp_arith : (after .measp (answering [got [0, 0, 0], got [0, 0, 0]] degenerate)).trace =
    [.evOpen true, .evXfer [0x74, 0x2E, 0x00] 3 [0, 0, 0], .evClose, .evWait 4500,
     .evOpen true, .evXfer [0xF6, 0x00, 0x00] 3 [0, 0, 0], .evClose, .evRsp .arith 0x00000081] := by decide +kernel

/-! ## Casts, samples, compensation, timer -/

/-- V-I1 to V-I9. -/
theorem test_casts : [0, 408, 32767, 32768, 65464, 65535, -1].map Cast.s16.apply = [0, 408, 32767, -32768, -72, -1, -1] ∧
    [0, 408, 32767, 32768, 65464, 65535, -1].map Cast.u16.apply = [0, 408, 32767, 32768, 65464, 65535, 65535] ∧
    [-1, 85, 255].map Cast.u8.apply = [255, 85, 255] := by decide
/-- V-M1 to V-M4. -/
theorem test_samples : [0x5D2300, 0x5D23DF, 0xFFFFFF, 0x00001F].map rawSample = [190744, 190750, 524287, 0] := by decide
/-- V-T1 to V-T9. -/
theorem test_calcT : ([27898, 26400, 0, 65535, 23153, 20000, 30000, 32768, 27904].map fun u =>
    (calcT u 32757 23153 (-8711) 2868).map Prod.snd) =
    [some 150, some 20, some (-1392), some 2623, some (-389), some 3730, some 313, some 511, some 150] := by decide +kernel
/-- V-T12, V-T13. -/
theorem test_calcT_failed : [26400, 27898].map (fun u => calcT u 65535 65535 (-1) (-1)) =
    [some (-6577830638531383873 / 84041563930624, -4892), some (-6083902117984747033 / 80824682512384, -4705)] := by decide +kernel
/-- V-P1 to V-P7. -/
theorem test_calcP : (([190744, 572233 / 3, 381489 / 2, 572240 / 3, 190747, 0, 524287] : List Rat).map fun up =>
    calcP (19610686360963913 / 8172686180352) up 408 (-72) (-14383) 32741 6190 4) =
    [some 69961, some 69962, some 69962, some 69962, some 69963, some (-1017), some 195157] := by decide +kernel
/-- V-P9 (mode 0, function level), V-P11, V-P12. -/
theorem test_calcP_others : calcPAt 0 (19610686360963913 / 8172686180352) 23843 408 (-72) (-14383) 32741 6190 4 = some 69960 ∧
    calcP (-6577830638531383873 / 84041563930624) 190744 (-1) (-1) (-1) 65535 (-1) (-1) = some 36718 ∧
    calcP (-6083902117984747033 / 80824682512384) 190744 (-1) (-1) (-1) 65535 (-1) (-1) = some 36696 := by decide +kernel
/-- V-W1 to V-W3. -/
theorem test_wait : ([1000000, 32768, 50000000].map fun f => (waitCycles { Config.defaultParams with clkHz := f } 4500,
    waitCycles { Config.defaultParams with clkHz := f } 25500)) = [(4500, 25500), (148, 836), (225000, 1275000)] := by decide
/-- E7: the wait table and the waits taken from it. -/
theorem test_wait_table : Config.waitTable Config.mode = some (8, Config.waitPUs) ∧ Config.waitTable 0 = some (1, Config.waitTUs) := by
  decide
/-- R104: a refused word is answered in a cycle in which the block is not ready; a word offered then is ignored. -/
theorem test_refusal_cycle : (tick ⟨false, some 0x20000000⟩ State.reset).cmdReady = false ∧
    (tick ⟨false, some 0x20000000⟩ State.reset).rsp = some ⟨.notInit, 0⟩ ∧
    tick ⟨false, some 0x40000000⟩ (tick ⟨false, some 0x20000000⟩ State.reset) =
      { State.reset with trace := [.evRsp .notInit 0] } := by decide
/-- R127: the first falling edge of a byte drives its top bit. -/
theorem test_first_edge : (Spi.idle.load 0x80).fall.mosi = some true ∧ (Spi.idle.load 0x7F).fall.mosi = some false := by decide
/-- R281: reset in the middle of a command drops it without a response. -/
theorem test_reset_busy : tick ⟨true, none⟩ busyState =
    { State.reset with env := { draws := [], taken := 1, miso := [] }, trace := [.evOpen true] } := by decide

/-! ## Witnesses: concrete data meeting the hypotheses of the statements -/

theorem witness_EncodeAfterDecodeIsIdentity : decode 0x4000FF00 = .ok (.get 0xFF) := by decide
theorem witness_DecoderFollowsMatchAndMask : (∃ row ∈ opTable, row.fits 0xB000FFFF = true) ∧ decode 0x8000FF00 = .ok (.rdb 0xFF) ∧
    (opRow .init) ∈ opTable ∧ (opRow .init).fits 0x10000000 = true := by decide
theorem witness_IllegalWordsChangeNothing : (offering 0xFFFFFFFF State.reset).seq = .idle ∧
    (offering 0xFFFFFFFF State.reset).host = ⟨false, some 0xFFFFFFFF⟩ :: [] ∧ IllegalWord 0xFFFFFFFF :=
  ⟨rfl, rfl, by unfold IllegalWord; decide⟩
/-- An illegal word for each clause of R105, and a legal word beside them. -/
theorem witness_IllegalWord_clauses : IllegalWord 0x00000000 ∧ IllegalWord 0x80010000 ∧ IllegalWord 0x10000100 ∧
    IllegalWord 0x4000FF01 ∧ ¬ IllegalWord 0xB000FFFF := by
  refine ⟨?_, ?_, ?_, ?_, ?_⟩ <;> (unfold IllegalWord; decide)
theorem witness_StepRunsDecodedCommand : (offering 0x30000000 State.reset).seq = .idle ∧
    (offering 0x30000000 State.reset).host = ⟨false, some 0x30000000⟩ :: [] ∧ decode 0x30000000 = .ok .measp := by decide
theorem witness_IdleWithoutCommandKeepsState : State.reset.seq = .idle ∧ State.reset.host = [] ∧
    ({ State.reset with host := [⟨false, none⟩] } : State).host = ⟨false, none⟩ :: [] := by decide
theorem witness_BusyIgnoresOfferedWord : busyState.cmdReady = false ∧
    (offering 0x10000000 busyState).cmdReady = false ∧ (offering 0x10000000 busyState).host = ⟨false, some 0x10000000⟩ :: [] := by decide
theorem witness_ReadyIsLowUntilAfterTheResponse : State.reset.cmdReady = true ∧ busyState.cmdReady = false ∧
    (refuse .illegal State.reset).cmdReady = false := by decide
theorem witness_ResponseLastsOneCycle : (refuse .illegal State.reset).seq = .respond ∧
    (offering 0x40000000 (refuse .illegal State.reset)).host = ⟨false, some 0x40000000⟩ :: [] := by decide
theorem witness_InitSetsItsFlags : (drawAt (answering (List.replicate 13 dead) State.reset) 11).full 2 = false := by decide
theorem witness_ResetFromEveryState : ({ busyState with host := [⟨true, some 0⟩] } : State).host = ⟨true, some 0⟩ :: [] := by decide
theorem witness_ResetAbandonsCommand : ({ waitState with host := [⟨true, none⟩] } : State).host = ⟨true, none⟩ :: [] := by decide
theorem witness_BytesGoMostSignificantBitFirst : (0 : Nat) < 8 ∧ (7 : Nat) < 8 := by decide
/-- The reserved numbers at the edges of their ranges; a register without a value; one with a value. -/
theorem witness_GetAnswersAndChangesNothing : assignedNumber 0x06 = false ∧ assignedNumber 0x0F = false ∧ assignedNumber 0x1B = false ∧
    assignedNumber 0xFF = false ∧ State.reset.hasValue .temp = false ∧ State.reset.hasValue .ut = true ∧
    calibrated.hasValue .md = true := by decide
theorem witness_ValueGuards : Reg.calibration .ac1 = true ∧ Reg.calibration .chipid = true := by decide
theorem witness_CoefficientsRoundTrip :
    [Reg.ac1, .ac2, .ac3, .ac4, .ac5, .ac6, .b1, .b2, .mb, .mc, .md][10]? = some Reg.md ∧
    (drawAt (answering initAnswers State.reset) 10).reply 3 = [0x00, 0x0B, 0x34] ∧
    [Reg.ac1, .ac2, .ac3, .ac4, .ac5, .ac6, .b1, .b2, .mb, .mc, .md][0]? = some Reg.ac1 ∧
    (drawAt (answering initAnswers State.reset) 0).reply 3 = [0x00, 0x01, 0x98] := by decide
theorem witness_MeasurementNeedsInit : State.reset.flag .initd = false := by decide
/-- The two outcomes of phase T. -/
theorem witness_MeastMeasuresTemperature : calibrated.flag .initd = true ∧ degenerate.flag .initd = true ∧
    (calcT (utAfter (answering pressAnswers calibrated)) (calibrated.x.read .ac5) (calibrated.x.read .ac6) (calibrated.x.read .mc)
      (calibrated.x.read .md)).isSome = true ∧
    calcT (utAfter (answering [got [0, 0, 0], got [0, 0, 0]] degenerate)) (degenerate.x.read .ac5) (degenerate.x.read .ac6)
      (degenerate.x.read .mc) (degenerate.x.read .md) = none := by decide +kernel
theorem witness_MeastTrace : (answering [dead, dead] calibrated).flag .initd = true := by decide
theorem witness_MeastFrame : (answering [got [0], dead] calibrated).flag .initd = true := by decide
/-- Three samples, none, and a fault of CALC_P (V-P8). -/
theorem witness_MeaspMeasuresPressure : (answering pressAnswers calibrated).flag .initd = true ∧
    (recordedSamples (answering pressAnswers calibrated)) = [190744, 190746, 190750] ∧
    (recordedSamples (answering failAnswers calibrated)) = [] ∧
    calcP (19610686360963913 / 8172686180352) (572240 / 3) 408 (-72) (-14383) 0 6190 4 = none := by decide +kernel
theorem witness_MeaspTrace : (answering failAnswers calibrated).flag .initd = true := by decide
theorem witness_MeaspFrame : (answering pressAnswers calibrated).flag .initd = true := by decide
/-- Program P5. -/
theorem witness_ThreeFailuresRaiseMeasurementFailed : (answering failAnswers calibrated).flag .initd = true ∧
    (calcT (utAfter (answering failAnswers calibrated)) (calibrated.x.read .ac5) (calibrated.x.read .ac6) (calibrated.x.read .mc)
      (calibrated.x.read .md)).map Prod.snd = some 313 ∧
    ∀ k ∈ [0, 1, 2], (drawAt (answering failAnswers calibrated) (2 + 2 * k)).full 3 = false ∨
      (drawAt (answering failAnswers calibrated) (3 + 2 * k)).full 4 = false := by decide +kernel
theorem witness_PressureCommandByte : Config.defaultParams.ossInCmd = true ∧ pressByte Config.defaultParams = 0xF4 ∧
    pressByte { Config.defaultParams with ossInCmd := false } = 0x34 := by decide
theorem witness_TemperatureIsRoundedOnce : calcT 27898 32757 23153 (-8711) 2868 = some (19610686360963913 / 8172686180352, 150) ∧
    calcT 0 32768 1 (-8711) 1 = none ∧ calcT 1 1 0 (-32768) 0 = none := by
  decide +kernel
theorem witness_CalcTMagnitudes : (0 ≤ (65535 : Int) ∧ (65535 : Int) ≤ 65535) ∧ (-32768 ≤ (-32768 : Int) ∧ (-32768 : Int) ≤ 32767) ∧
    (65535 - 0 : Int) * 65535 + (-32768) * 2 ^ 15 ≠ 0 := by decide
/-- V-T11: a temperature turned away, with all arguments in their domains. -/
theorem witness_CalcTMagnitudes_none : calcT 1 1 0 (-32768) 0 = none ∧ (1 - 0 : Int) * 1 + 0 * 2 ^ 15 ≠ 0 := by decide +kernel
/-- MEAST entering T1, and a state in P(2,1), each with no timer running. -/
theorem witness_WaitTimerIsLeastCover : (seqTick (start .meast (answering [dead] calibrated))).seq = .t 1 ∧
    (seqTick (start .meast (answering [dead] calibrated))).work.timer = none ∧
    ({ calibrated with seq := .p 2 1 } : State).work.timer = none := by decide
theorem witness_RawSampleIsNineteenBits : (got [0, 0xFF, 0xFF, 0xFF]).full 4 = true := by decide
theorem witness_BusActivityPerCommand :
    ∃ evs, exec .meast State.reset = .next (after .meast State.reset) ∧ (after .meast State.reset).trace = State.reset.trace ++ evs :=
  ⟨[.evRsp .notInit 0], rfl, by decide⟩
theorem witness_OnlyInitWritesCalibration : Instr.measp ≠ .init ∧ exec .measp State.reset = .next (after .measp State.reset) ∧
    Reg.calibration .md = true := ⟨by decide, rfl, rfl⟩
theorem witness_OnlyMeasurementsWriteReadings : Instr.init ≠ .meast ∧ Instr.init ≠ .measp ∧
    exec .init State.reset = .next (after .init State.reset) := ⟨by decide, by decide, rfl⟩
theorem witness_StickyFieldsAreNeverCleared : StatusField.sticky .initd = true ∧ calibrated.flag .initd = true ∧
    exec .init calibrated = .next (after .init calibrated) := ⟨rfl, by decide, rfl⟩
theorem witness_FirstByteReceivedIsDiscarded : List.Forall₂ Draw.SameButFirst [got [0x3C, 0x55]] [got [0xFF, 0x55]] :=
  .cons ⟨rfl, rfl, rfl⟩ .nil
theorem witness_OnlyThreeFlagsGuardBehaviour : ∀ f ∈ [StatusField.initd, .tvalid, .pvalid], statusGet f 0x0FE7 = calibrated.flag f := by
  decide

theorem witness_Inv_idle : Inv calibrated := by apply inv_of_rest <;> decide

/-- A busy state with an open session meets the invariant. -/
theorem witness_Inv_busy : Inv busyState := by
  have hf : frameOf busyState = some [0xD0, 0x00] := by decide
  have hp : busyState.work.phase = .gap := by decide
  constructor
  case openInTxn => simp [hf]
  case closedQuiet => simp [hp]
  case rxBound => exact ⟨by decide, fun out _ h => by cases hf.symm.trans h; decide⟩
  case byteInFrame => simp [hp]
  all_goals decide

/-- A state in the cycle of a response meets the invariant. -/
theorem witness_Inv_respond : Inv (refuse .illegal State.reset) := by apply inv_of_rest <;> decide

/-- A state in a wait meets the invariant. -/
theorem witness_Inv_wait : Inv waitState ∧ waitState.seq.waiting = true := by
  have hf : frameOf waitState = none := by decide
  have hp : waitState.work.phase = .closed := by decide
  refine ⟨?_, by decide⟩
  constructor
  case rxBound => exact ⟨by decide, fun out h => absurd hp h⟩
  case byteInFrame => simp [hp]
  case openInTxn => simp [hp]
  all_goals decide

theorem witness_StepKeepsInvariant : Inv State.reset ∧ step State.reset = .next State.reset :=
  ⟨by apply inv_of_rest <;> decide, rfl⟩
theorem witness_TickKeepsInvariant : Inv busyState := witness_Inv_busy
theorem witness_BusIsReleasedInWaitsAndIdle : Inv waitState ∧ waitState.seq.waiting = true := witness_Inv_wait
theorem witness_SequencerRefinesCommand : Inv calibrated ∧ calibrated.seq = .idle := ⟨witness_Inv_idle, rfl⟩
theorem witness_BusyBlockReturnsToIdle : Inv busyState ∧ busyState.cmdReady = false := ⟨witness_Inv_busy, by decide⟩

end Sys2Proof.Tests
end

section
/-! PROOFS of the family 10_state: the reset values (`10_state.md` R50), and that of STATUS only INITD, TVALID and PVALID reach a
command's behaviour (R32). For R32 one relation of two states, `DifferInStatus`, is kept by every operation a command is built from;
each command's answer then follows from the states it answers in. -/

namespace Sys2Proof.Machine

/-! ## Reset values -/

/-- While STATUS is 0 the registers with a value are STATUS and UT (R241). -/
theorem State.hasValue_of_status_zero {s : State} (h : s.x.status = 0) (r : Reg) :
    s.hasValue r = (r == .status || r == .ut) := by
  have hf : ∀ f, s.flag f = false := fun f => by simp [State.flag, statusGet, h]
  cases r <;> simp [State.hasValue, hf]

/-- Settles O12: each clause is the value `State.reset` writes; which registers have a value follows from STATUS being 0. -/
theorem resetValues : Obligations.ResetValues :=
  ⟨rfl, rfl, rfl, rfl, rfl, rfl, State.hasValue_of_status_zero rfl⟩

/-! ## Two states that differ in STATUS -/

/-- The fields of STATUS that guard a command's behaviour (R32). -/
def guardFields : List StatusField := [.initd, .tvalid, .pvalid]

/-- The state with another STATUS. -/
def State.withStatus (st : Half) (s : State) : State := { s with x := { s.x with status := st } }

/-- `u` is `t` with a STATUS that agrees on the guards; `past` is the trace both began with. -/
def DifferInStatus (past : List Event) (t u : State) : Prop :=
  ∃ st, u = t.withStatus st ∧ (∀ f ∈ guardFields, statusGet f st = t.flag f) ∧ past <+: t.trace

/-- Two runs of an operation return the same and leave states that differ in STATUS alone. -/
def SameResult {α : Type} (past : List Event) (p q : α × State) : Prop := p.1 = q.1 ∧ DifferInStatus past p.2 q.2

/-- The operation `F` gives two states that differ in STATUS alone the same result. -/
def KeepsStatusApart {α : Type} (F : State → α × State) : Prop :=
  ∀ past t u, DifferInStatus past t u → SameResult past (F t) (F u)

section
variable {past : List Event} {t u : State}

theorem DifferInStatus.params_eq (h : DifferInStatus past t u) : t.params = u.params := by
  obtain ⟨st, rfl, -, -⟩ := h
  rfl

/-- A guard reads the same in both states. -/
theorem DifferInStatus.flag_eq (h : DifferInStatus past t u) {f : StatusField} (hf : f ∈ guardFields) : t.flag f = u.flag f := by
  obtain ⟨st, rfl, hg, -⟩ := h
  exact (hg f hf).symm

/-- A register has a value in both states or in neither: R241 reads the guards alone. -/
theorem DifferInStatus.hasValue_eq (h : DifferInStatus past t u) (r : Reg) : t.hasValue r = u.hasValue r := by
  have hi := h.flag_eq (f := .initd) (by decide)
  have ht := h.flag_eq (f := .tvalid) (by decide)
  have hp := h.flag_eq (f := .pvalid) (by decide)
  cases r
  case status | ut => rfl
  case temp => exact ht
  case press => exact hp
  all_goals exact hi

/-- The 32-bit view of a register other than STATUS is the same. -/
theorem DifferInStatus.view32_eq (h : DifferInStatus past t u) {r : Reg} (hr : r ≠ .status) : t.x.view32 r = u.x.view32 r := by
  obtain ⟨st, rfl, -, -⟩ := h
  cases r
  case status => exact absurd rfl hr
  all_goals rfl

/-! ### What keeps the relation -/

theorem DifferInStatus.setFlag (h : DifferInStatus past t u) (f : StatusField) (b : Bool) :
    DifferInStatus past (t.setFlag f b) (u.setFlag f b) := by
  obtain ⟨st, rfl, hg, hp⟩ := h
  refine ⟨statusSet f b st, rfl, fun g hm => ?_, hp⟩
  rw [statusGet_set, State.flag_setFlag, hg g hm]

theorem DifferInStatus.setNsamp (h : DifferInStatus past t u) (n : Nat) : DifferInStatus past (t.setNsamp n) (u.setNsamp n) := by
  obtain ⟨st, rfl, hg, hp⟩ := h
  refine ⟨nsampSet n st, rfl, fun g hm => ?_, hp⟩
  rw [statusGet_setNsamp, State.flag_setNsamp, hg g hm]

theorem DifferInStatus.raise (h : DifferInStatus past t u) (c : Condition) :
    DifferInStatus past (Machine.raise c t) (Machine.raise c u) := by
  unfold Machine.raise
  cases c.field with
  | none => exact h
  | some f => exact h.setFlag f true

theorem DifferInStatus.writeReg (h : DifferInStatus past t u) {r : Reg} (hr : r ≠ .status) (v : Int) :
    DifferInStatus past (t.writeReg r v) (u.writeReg r v) := by
  obtain ⟨st, rfl, hg, hp⟩ := h
  refine ⟨st, ?_, fun g hm => ?_, hp⟩
  · cases r
    case status => exact absurd rfl hr
    all_goals rfl
  · rw [hg g hm, State.flag, State.flag, State.writeReg_x, RegFile.status_write r v _ hr]

theorem DifferInStatus.wait (h : DifferInStatus past t u) (us : Nat) :
    DifferInStatus past (Machine.wait us t) (Machine.wait us u) := by
  obtain ⟨st, rfl, hg, hp⟩ := h
  exact ⟨st, rfl, hg, hp.trans ⟨_, rfl⟩⟩

/-- The update of UT (R183): a register write, or UTSTALE. -/
theorem DifferInStatus.storeUt (h : DifferInStatus past t u) (w : Bool) (v : Int) :
    DifferInStatus past (Machine.storeUt w v t) (Machine.storeUt w v u) := by
  unfold Machine.storeUt
  split
  · exact h.writeReg (by decide) v
  · exact h.raise .tempSampleFailed

end

/-! ### Transactions -/

/-- A transaction (R120): what it returns is the environment's alone. -/
theorem txn_keepsStatusApart (out : List Byte) : KeepsStatusApart (txn out) := by
  rintro past t u ⟨st, rfl, hg, hp⟩
  rw [txn_eq, txn_eq]
  refine ⟨rfl, txnStatus out.length (drawAt t 0) st, rfl, fun f hm => ?_, hp.trans ⟨_, rfl⟩⟩
  simp only [State.flag, statusGet_txnStatus, hg f hm]

theorem memRead_keepsStatusApart (a : Byte) (n : Nat) : KeepsStatusApart (memRead a n) := fun past t u h =>
  have ⟨hr, hs⟩ := txn_keepsStatusApart (frameRead a n) past t u h
  ⟨congrArg (readValue n) hr, hs⟩

theorem memWrite_keepsStatusApart (a v : Byte) : KeepsStatusApart (memWrite a v) := fun past t u h =>
  have ⟨hr, hs⟩ := txn_keepsStatusApart (frameWrite a v) past t u h
  ⟨congrArg writeOk hr, hs⟩

/-! ### INIT's load -/

section
variable {past : List Event}

theorem SameResult.loadOne {p q : Bool × State} (h : SameResult past p q) {e : LoadEntry} (he : e.reg ≠ .status) :
    SameResult past (Machine.loadOne p e) (Machine.loadOne q e) := by
  obtain ⟨herr, hs⟩ := h
  obtain ⟨hv, hs'⟩ := memRead_keepsStatusApart e.addr e.n past _ _ hs
  unfold Machine.loadOne storeLoaded
  rw [herr, hv]
  exact ⟨rfl, hs'.writeReg he _⟩

theorem SameResult.loadAll {es : List LoadEntry} (hes : ∀ e ∈ es, e.reg ≠ .status) {p q : Bool × State}
    (h : SameResult past p q) : SameResult past (Machine.loadAll es p) (Machine.loadAll es q) := by
  induction es generalizing p q with
  | nil => exact h
  | cons e es ih => exact ih (fun e' he' => hes e' (.tail _ he')) (h.loadOne (hes e (.head _)))

/-- LOAD_ORDER (R161) has no row for STATUS. -/
theorem loadOrder_reg_ne_status (p : Params) : ∀ e ∈ loadOrder p, e.reg ≠ .status := by simp [loadOrder]

end

/-! ### The measurements -/

/-- What a temperature and a pressure sample share (R182, R188): the command byte `v` written, a wait, a read of `n` bytes. -/
def conversion (v : Byte) (us n : Nat) (s : State) : (Bool × Int) × State :=
  let (w, s1) := memWrite s.params.aCtrlMeasW v s
  let (r, s2) := memRead s.params.aDataR n (wait us s1)
  ((w, r), s2)

theorem sampleT_eq_conversion (s : State) :
    sampleT s = (let c := conversion s.params.tempCmd Config.waitTUs 2 s; (c.1.1, c.1.2, c.2)) := rfl

theorem sampleP_eq_conversion (s : State) :
    sampleP s = (let c := conversion (pressByte s.params) Config.waitPUs 3 s; (c.1.1, c.1.2, c.2)) := rfl

theorem conversion_keepsStatusApart (v : Byte) (us n : Nat) : KeepsStatusApart (conversion v us n) := by
  intro past t u h
  obtain ⟨hw, h1⟩ := memWrite_keepsStatusApart t.params.aCtrlMeasW v past t u h
  obtain ⟨hr, h2⟩ := memRead_keepsStatusApart t.params.aDataR n past _ _ (h1.wait us)
  unfold conversion
  rw [← h.params_eq]
  exact ⟨congrArg₂ Prod.mk hw hr, h2⟩

/-- The arithmetic of phase T (R182): `CALC_T` does not read STATUS. -/
theorem compensateT_keepsStatusApart : KeepsStatusApart compensateT := by
  intro past t u h
  have hx : calcTOf t.x = calcTOf u.x := by
    obtain ⟨st, rfl, -, -⟩ := h
    rfl
  unfold compensateT
  rw [hx]
  cases calcTOf u.x with
  | none => exact ⟨rfl, h.raise .arithFault⟩
  | some r => exact ⟨rfl, (h.writeReg (by decide) _).setFlag .tvalid true⟩

theorem phaseT_keepsStatusApart : KeepsStatusApart phaseT := by
  intro past t u h
  obtain ⟨hr, hs⟩ := conversion_keepsStatusApart t.params.tempCmd Config.waitTUs 2 past t u h
  simp only [phaseT, sampleT_eq_conversion, ← h.params_eq, hr]
  exact compensateT_keepsStatusApart past _ _ (hs.storeUt _ _)

/-- The loop of phase P (R188). -/
theorem SameResult.samplesP {past : List Event} (n : Nat) {p q : List Nat × State} (h : SameResult past p q) :
    SameResult past (Machine.samplesP n p) (Machine.samplesP n q) := by
  induction n generalizing p q with
  | zero => exact h
  | succ n ih =>
    obtain ⟨hacc, hs⟩ := h
    obtain ⟨hr, hs'⟩ := conversion_keepsStatusApart (pressByte p.2.params) Config.waitPUs 3 past _ _ hs
    simp only [Machine.samplesP, sampleP_eq_conversion, ← hs.params_eq, hacc, hr]
    exact ih ⟨rfl, hs'⟩

/-! ## The answers -/

/-- `t` and `u` stand in the cycle of a response to one command: the same registers but STATUS, guards, environment, bus activity
since `past` and code; and the same data when `sameData`. -/
def AnswersAlike (past : List Event) (sameData : Prop) (t u : State) : Prop :=
  ∃ evs c v w, t.x.noStatus = u.x.noStatus ∧ t.env = u.env ∧ t.trace = past ++ evs ++ [.evRsp c v] ∧
    u.trace = past ++ evs ++ [.evRsp c w] ∧ (∀ f ∈ guardFields, t.flag f = u.flag f) ∧ (sameData → v = w)

section
variable {past : List Event} {t u : State} {sameData : Prop}

theorem DifferInStatus.respond (h : DifferInStatus past t u) (c : Code) {v w : Word} (hd : sameData → v = w) :
    AnswersAlike past sameData (Machine.respond c v t) (Machine.respond c w u) := by
  have hf : ∀ f ∈ guardFields, t.flag f = u.flag f := fun f => h.flag_eq
  obtain ⟨st, rfl, -, evs, he⟩ := h
  exact ⟨evs, c, v, w, rfl, rfl, by rw [respond_trace, he], by rw [he]; rfl, hf, hd⟩

theorem DifferInStatus.refuse (h : DifferInStatus past t u) (c : Condition) :
    AnswersAlike past sameData (Machine.refuse c t) (Machine.refuse c u) :=
  h.respond c.code fun _ => rfl

theorem DifferInStatus.respondStatus (h : DifferInStatus past t u) (c : Code) :
    AnswersAlike past False (Machine.respondStatus c t) (Machine.respondStatus c u) :=
  h.respond c False.elim

theorem DifferInStatus.respondRead (h : DifferInStatus past t u) (v : Int) :
    AnswersAlike past True (Machine.respondRead v t) (Machine.respondRead v u) := by
  unfold Machine.respondRead
  split <;> exact h.respond _ fun _ => rfl

theorem DifferInStatus.respondWrite (h : DifferInStatus past t u) (ok : Bool) :
    AnswersAlike past True (Machine.respondWrite ok t) (Machine.respondWrite ok u) := by
  unfold Machine.respondWrite
  split <;> exact h.respond _ fun _ => rfl

/-- The end of INIT (R160, R164, R165). -/
theorem DifferInStatus.initFinish (h : DifferInStatus past t u) (err : Bool) :
    AnswersAlike past False (Machine.initFinish err t) (Machine.initFinish err u) := by
  have hid : t.x.chipid = u.x.chipid := by
    obtain ⟨st, rfl, -, -⟩ := h
    rfl
  have h1 : DifferInStatus past
      (if t.x.chipid ≠ Config.chipIdExpected then Machine.raise (.chipIdMismatch t.x.chipid) t else t)
      (if u.x.chipid ≠ Config.chipIdExpected then Machine.raise (.chipIdMismatch u.x.chipid) u else u) := by
    rw [hid]
    split
    · exact h.raise _
    · exact h
  cases err with
  | false => exact (h1.setFlag .initd true).respondStatus .ok
  | true => exact ((h1.raise .initReadFailed).setFlag .initd true).respondStatus .ok

/-- The end of MEAST (R181). -/
theorem DifferInStatus.meastFinish (h : DifferInStatus past t u) (r : Option Rat) :
    AnswersAlike past False (Machine.meastFinish r t) (Machine.meastFinish r u) := by
  cases r <;> exact h.respondStatus _

/-- The end of MEASP after the loop (R186): `CALC_P` does not read STATUS. -/
theorem DifferInStatus.measpFinish (h : DifferInStatus past t u) (b5 : Rat) (samples : List Nat) :
    AnswersAlike past False (Machine.measpFinish b5 samples t) (Machine.measpFinish b5 samples u) := by
  have h1 := h.setNsamp samples.length
  have hx : calcPOf (t.setNsamp samples.length).x b5 (meanOf samples) = calcPOf (u.setNsamp samples.length).x b5 (meanOf samples) := by
    obtain ⟨st, rfl, -, -⟩ := h
    rfl
  simp only [Machine.measpFinish, hx]
  split
  · exact (h1.raise .measurementFailed).respondStatus _
  · split
    · exact (h1.raise .arithFault).respondStatus _
    · exact ((h1.writeReg (by decide) _).setFlag .pvalid true).respondStatus .ok

/-- Phase P (R186, R187). -/
theorem DifferInStatus.phaseP (h : DifferInStatus past t u) (r : Option Rat) :
    AnswersAlike past False (Machine.phaseP r t) (Machine.phaseP r u) := by
  cases r with
  | none => exact h.respondStatus _
  | some b5 =>
    obtain ⟨hacc, hs⟩ := SameResult.samplesP (p := ([], t)) (q := ([], u)) Config.nSamples ⟨rfl, h⟩
    unfold Machine.phaseP
    rw [hacc]
    exact hs.measpFinish b5 _

/-! ## The commands -/

theorem DifferInStatus.meastRun (h : DifferInStatus past t u) :
    AnswersAlike past False (Machine.meastRun t) (Machine.meastRun u) := by
  have h1 : DifferInStatus past (meastStart t) (meastStart u) := (h.setFlag .utstale false).setFlag .arith false
  obtain ⟨hr, hs⟩ := phaseT_keepsStatusApart past _ _ h1
  unfold Machine.meastRun
  rw [h.flag_eq (f := .initd) (by decide), hr]
  split
  · exact hs.meastFinish _
  · exact h.refuse .notInit

theorem DifferInStatus.measpRun (h : DifferInStatus past t u) :
    AnswersAlike past False (Machine.measpRun t) (Machine.measpRun u) := by
  have h1 : DifferInStatus past (measpStart t) (measpStart u) :=
    (((h.setFlag .utstale false).setFlag .arith false).setFlag .mfail false).setNsamp 0
  obtain ⟨hr, hs⟩ := phaseT_keepsStatusApart past _ _ h1
  unfold Machine.measpRun
  rw [h.flag_eq (f := .initd) (by decide), hr]
  split
  · exact hs.phaseP _
  · exact h.refuse .notInit

/-- A read command (R142 to R144). -/
theorem DifferInStatus.memRead_respondRead (h : DifferInStatus past t u) (a : Byte) (n : Nat) :
    AnswersAlike past True (Machine.respondRead (memRead a n t).1 (memRead a n t).2)
      (Machine.respondRead (memRead a n u).1 (memRead a n u).2) := by
  obtain ⟨hr, hs⟩ := memRead_keepsStatusApart a n past t u h
  rw [hr]
  exact hs.respondRead _

/-- STATUS has no number but 0 (R20). -/
theorem Reg.ofNum_eq_status : ∀ r : Byte, Reg.ofNum r = some .status → r = 0 := by decide

/-- GET (R240): its data is STATUS for register 0 alone. -/
theorem DifferInStatus.getRun (h : DifferInStatus past t u) (r : Byte) :
    AnswersAlike past (r ≠ 0) (Machine.getRun r t) (Machine.getRun r u) := by
  unfold Machine.getRun
  cases hg : Reg.ofNum r with
  | none => exact h.refuse .badReg
  | some g =>
    simp only [h.hasValue_eq g]
    split
    · exact h.respond .ok fun hr => h.view32_eq fun e => hr (Reg.ofNum_eq_status r (e ▸ hg))
    · exact h.refuse .noValue

end

/-- The commands whose data is never STATUS (R103). -/
def dataIsNotStatus (i : Instr) : Prop := i ≠ .init ∧ i ≠ .meast ∧ i ≠ .measp ∧ i ≠ .get 0

theorem AnswersAlike.mono {past : List Event} {t u : State} {P Q : Prop} (h : AnswersAlike past P t u) (hQ : Q → P) :
    AnswersAlike past Q t u :=
  have ⟨evs, c, v, w, hx, he, ht, hu, hf, hd⟩ := h
  ⟨evs, c, v, w, hx, he, ht, hu, hf, hd ∘ hQ⟩

/-- Every command answers two states that differ in STATUS alike (R32). -/
theorem exec_answersAlike (i : Instr) {past : List Event} {t u : State} (h : DifferInStatus past t u) :
    ∃ t' u', exec i t = .next t' ∧ exec i u = .next u' ∧ AnswersAlike past (dataIsNotStatus i) t' u' := by
  cases i with
  | init =>
    have h1 : DifferInStatus past (initStart t) (initStart u) := (h.setFlag .idwarn false).setFlag .calerr false
    obtain ⟨herr, hs⟩ := SameResult.loadAll (loadOrder_reg_ne_status t.params) (p := (false, initStart t))
      (q := (false, initStart u)) ⟨rfl, h1⟩
    refine ⟨_, _, rfl, rfl, ?_⟩
    rw [← h.params_eq, ← herr]
    exact (hs.initFinish _).mono fun ⟨hi, _⟩ => hi rfl
  | meast => exact ⟨_, _, rfl, rfl, h.meastRun.mono fun ⟨_, hi, _⟩ => hi rfl⟩
  | measp => exact ⟨_, _, rfl, rfl, h.measpRun.mono fun ⟨_, _, hi, _⟩ => hi rfl⟩
  | get r => exact ⟨_, _, rfl, rfl, (h.getRun r).mono fun ⟨_, _, _, hi⟩ hr => hi (hr ▸ rfl)⟩
  | rdb a => exact ⟨_, _, rfl, rfl, (h.memRead_respondRead a 1).mono fun _ => trivial⟩
  | rdw a => exact ⟨_, _, rfl, rfl, (h.memRead_respondRead a 2).mono fun _ => trivial⟩
  | rdt a => exact ⟨_, _, rfl, rfl, (h.memRead_respondRead a 3).mono fun _ => trivial⟩
  | wrr a d =>
    obtain ⟨hr, hs⟩ := memWrite_keepsStatusApart a d past t u h
    exact ⟨_, _, rfl, rfl, hr ▸ (hs.respondWrite _).mono fun _ => trivial⟩

/-- Settles O52: the two states are related by `DifferInStatus`, which every operation keeps, so the answers are alike. -/
theorem onlyThreeFlagsGuardBehaviour : Obligations.OnlyThreeFlagsGuardBehaviour := by
  intro i s st hg
  have h : DifferInStatus s.trace s (s.withStatus st) := ⟨st, rfl, hg, ⟨[], List.append_nil _⟩⟩
  obtain ⟨t, u, ht, hu, evs, c, v, w, hx, he, htt, hut, hf, hd⟩ := exec_answersAlike i h
  exact ⟨t, u, evs, c, v, w, ht, hu, hx, he, htt, hut, hf, fun h1 h2 h3 h4 => hd ⟨h1, h2, h3, h4⟩⟩

end Sys2Proof.Machine
end

section
/-! PROOFS of the family 20_memory: the first byte received in a transaction reaches no register and no response (`20_memory.md`
R70). What a transaction returns and leaves in STATUS is the same for two answers that differ in that byte alone; the registers and
the response of each command are then read off the closed forms of the load and of the samples (`Laws/`). -/

namespace Sys2Proof

/-! ## Two answers that differ in the first byte -/

section
variable {d e : Draw}

theorem Draw.SameButFirst.refl (d : Draw) : d.SameButFirst d := ⟨rfl, rfl, rfl⟩

/-- As many bytes are received. -/
theorem Draw.SameButFirst.reply_length_eq (h : d.SameButFirst e) (N : Nat) : (d.reply N).length = (e.reply N).length := by
  obtain ⟨ha, hl, -⟩ := h
  simp only [Draw.reply, ha, apply_ite List.length, List.length_take, hl]

/-- The bytes received after the first are the same. -/
theorem Draw.SameButFirst.reply_tail_eq (h : d.SameButFirst e) (N : Nat) : (d.reply N).tail = (e.reply N).tail := by
  obtain ⟨ha, -, ht⟩ := h
  simp only [← List.drop_one] at ht ⊢
  simp only [Draw.reply, ha, apply_ite (List.drop 1), List.drop_take, ht]

theorem Draw.SameButFirst.full_eq (h : d.SameButFirst e) (N : Nat) : d.full N = e.full N := by
  rw [Draw.full, Draw.full, h.reply_length_eq]

/-- The value of a read skips the first byte (R70, R141). -/
theorem Draw.SameButFirst.value_eq (h : d.SameButFirst e) (n : Nat) : d.value n = e.value n := by
  rw [Draw.value, Draw.value, h.full_eq, h.reply_tail_eq]

/-- STATUS records the count of bytes alone (R122, R123). -/
theorem Draw.SameButFirst.txnStatus_eq (h : d.SameButFirst e) (N : Nat) (st : Half) :
    Machine.txnStatus N d st = Machine.txnStatus N e st := by
  rw [Machine.txnStatus, Machine.txnStatus, h.reply_length_eq, h.1]

end

namespace Machine

/-! ## What the loops make of the answers -/

section
variable {D E : Nat → Draw}

theorem loadErr_eq_of_sameButFirst (es : List LoadEntry) (h : ∀ k, (D k).SameButFirst (E k)) : loadErr es D = loadErr es E := by
  induction es generalizing D E with
  | nil => rfl
  | cons e es ih => rw [loadErr, loadErr, (h 0).full_eq, ih fun k => h (k + 1)]

theorem loadRegs_eq_of_sameButFirst (es : List LoadEntry) (h : ∀ k, (D k).SameButFirst (E k)) (x : RegFile) :
    loadRegs es D x = loadRegs es E x := by
  induction es generalizing D E x with
  | nil => rfl
  | cons e es ih => rw [loadRegs, loadRegs, (h 0).value_eq, (h 0).txnStatus_eq, ih fun k => h (k + 1)]

theorem loopSamples_eq_of_sameButFirst (n : Nat) (h : ∀ k, (D k).SameButFirst (E k)) (acc : List Nat) :
    loopSamples n D acc = loopSamples n E acc := by
  induction n generalizing D E acc with
  | zero => rfl
  | succ n ih =>
    rw [loopSamples, loopSamples, (h 0).full_eq, (h 1).full_eq, (h 1).value_eq, ih fun k => h (k + 2)]

theorem loopStatus_eq_of_sameButFirst (n : Nat) (h : ∀ k, (D k).SameButFirst (E k)) (st : Half) :
    loopStatus n D st = loopStatus n E st := by
  induction n generalizing D E st with
  | zero => rfl
  | succ n ih => rw [loopStatus, loopStatus, (h 0).txnStatus_eq, (h 1).txnStatus_eq, ih fun k => h (k + 2)]

end

/-! ## Two states whose environments differ in first bytes -/

/-- `t` and `u` hold the same registers and parameters, and the answers to come differ at most in first bytes. -/
structure DifferInFirstBytes (t u : State) : Prop where
  x_eq : t.x = u.x
  params_eq : t.params = u.params
  draws : ∀ k, (drawAt t k).SameButFirst (drawAt u k)

/-- `t` and `u` hold the same registers and show the same response. -/
def SameAnswer (t u : State) : Prop := t.x = u.x ∧ t.rsp = u.rsp

/-- Environments whose lists differ in first bytes give such answers beyond the lists too: there both give the free value. -/
theorem Env.draw_sameButFirst (e : Env) {ds : List Draw} (h : List.Forall₂ Draw.SameButFirst e.draws ds) (k : Nat) :
    (e.draw k).SameButFirst ({ e with draws := ds }.draw k) := by
  obtain ⟨hl, hget⟩ := List.forall₂_iff_get.mp h
  unfold Env.draw
  by_cases hk : k < e.draws.length
  · have hk' : k < ds.length := hl ▸ hk
    simpa only [List.getElem?_eq_getElem hk, List.getElem?_eq_getElem hk', List.get_eq_getElem] using hget k hk hk'
  · have hk' : ds.length ≤ k := by omega
    simpa only [List.getElem?_eq_none (Nat.le_of_not_lt hk), List.getElem?_eq_none hk'] using Draw.SameButFirst.refl _

section
variable {t u : State}

theorem DifferInFirstBytes.setFlag (h : DifferInFirstBytes t u) (f : StatusField) (b : Bool) :
    DifferInFirstBytes (t.setFlag f b) (u.setFlag f b) :=
  ⟨by rw [State.setFlag_x, State.setFlag_x, h.x_eq], h.params_eq, h.draws⟩

theorem DifferInFirstBytes.setNsamp (h : DifferInFirstBytes t u) (n : Nat) : DifferInFirstBytes (t.setNsamp n) (u.setNsamp n) :=
  ⟨by rw [State.setNsamp_x, State.setNsamp_x, h.x_eq], h.params_eq, h.draws⟩

theorem DifferInFirstBytes.flag_eq (h : DifferInFirstBytes t u) (f : StatusField) : t.flag f = u.flag f := by
  rw [State.flag, State.flag, h.x_eq]

theorem DifferInFirstBytes.memRead_fst_eq (h : DifferInFirstBytes t u) (a : Byte) (n : Nat) :
    (memRead a n t).1 = (memRead a n u).1 := by
  rw [memRead_eq, memRead_eq]
  exact (h.draws 0).value_eq n

theorem DifferInFirstBytes.memRead_x_eq (h : DifferInFirstBytes t u) (a : Byte) (n : Nat) :
    (memRead a n t).2.x = (memRead a n u).2.x := by
  simp only [memRead_eq, h.x_eq, (h.draws 0).txnStatus_eq]

theorem DifferInFirstBytes.memWrite_fst_eq (h : DifferInFirstBytes t u) (a v : Byte) :
    (memWrite a v t).1 = (memWrite a v u).1 := by
  rw [memWrite_eq, memWrite_eq]
  exact (h.draws 0).full_eq 3

theorem DifferInFirstBytes.memWrite_x_eq (h : DifferInFirstBytes t u) (a v : Byte) :
    (memWrite a v t).2.x = (memWrite a v u).2.x := by
  simp only [memWrite_eq, h.x_eq, (h.draws 0).txnStatus_eq]

theorem DifferInFirstBytes.regsT_eq (h : DifferInFirstBytes t u) : regsT t = regsT u := by
  simp only [regsT, h.x_eq, (h.draws 0).full_eq, (h.draws 1).full_eq, (h.draws 1).value_eq, (h.draws 0).txnStatus_eq,
    (h.draws 1).txnStatus_eq]

theorem drawAt_phaseT (s : State) (k : Nat) : drawAt (phaseT s).2 k = drawAt s (2 + k) := by
  obtain ⟨-, -, -, -, -, henv, -⟩ := phaseT_frame s
  rw [drawAt, henv, draw_envAfter, drawAt]

/-- Phase T (R182). -/
theorem DifferInFirstBytes.phaseT (h : DifferInFirstBytes t u) :
    (Machine.phaseT t).1 = (Machine.phaseT u).1 ∧ DifferInFirstBytes (Machine.phaseT t).2 (Machine.phaseT u).2 := by
  obtain ⟨hrt, hxt⟩ := phaseT_regs t
  obtain ⟨hru, hxu⟩ := phaseT_regs u
  refine ⟨by rw [hrt, hru, h.regsT_eq], by rw [hxt, hxu, h.regsT_eq], ?_, fun k => ?_⟩
  · rw [(phaseT_frame t).1, (phaseT_frame u).1, h.params_eq]
  · rw [drawAt_phaseT, drawAt_phaseT]
    exact h.draws (2 + k)

end

/-! ## What the ends of the commands make of the registers -/

section
variable {t u : State}

theorem sameAnswer_respond (hx : t.x = u.x) (c : Code) (v : Word) : SameAnswer (respond c v t) (respond c v u) := ⟨hx, rfl⟩

theorem sameAnswer_respondStatus (hx : t.x = u.x) (c : Code) : SameAnswer (respondStatus c t) (respondStatus c u) :=
  ⟨hx, by rw [respondStatus_rsp, respondStatus_rsp, hx]⟩

theorem raise_x_eq (hx : t.x = u.x) (c : Condition) : (raise c t).x = (raise c u).x := by
  unfold raise
  cases c.field with
  | none => exact hx
  | some f => rw [State.setFlag_x, State.setFlag_x, hx]

theorem sameAnswer_failWith (hx : t.x = u.x) (c : Condition) : SameAnswer (failWith c t) (failWith c u) :=
  sameAnswer_respondStatus (raise_x_eq hx c) c.code

theorem sameAnswer_respondRead (hx : t.x = u.x) (v : Int) : SameAnswer (respondRead v t) (respondRead v u) := by
  unfold respondRead
  split <;> exact sameAnswer_respond hx _ _

theorem sameAnswer_respondWrite (hx : t.x = u.x) (ok : Bool) : SameAnswer (respondWrite ok t) (respondWrite ok u) := by
  unfold respondWrite
  split <;> exact sameAnswer_respond hx _ _

theorem sameAnswer_meastFinish (hx : t.x = u.x) (r : Option Rat) : SameAnswer (meastFinish r t) (meastFinish r u) := by
  cases r <;> exact sameAnswer_respondStatus hx _

theorem sameAnswer_measpFinish (hx : t.x = u.x) (b5 : Rat) (samples : List Nat) :
    SameAnswer (measpFinish b5 samples t) (measpFinish b5 samples u) := by
  have h1 : (t.setNsamp samples.length).x = (u.setNsamp samples.length).x := by rw [State.setNsamp_x, State.setNsamp_x, hx]
  simp only [measpFinish, h1]
  split
  · exact sameAnswer_failWith h1 .measurementFailed
  · split
    · exact sameAnswer_failWith h1 .arithFault
    · exact sameAnswer_respondStatus (by simp only [State.setFlag_x, State.writeReg_x, h1]) .ok

theorem State.hasValue_eq_of_x_eq (hx : t.x = u.x) (r : Reg) : t.hasValue r = u.hasValue r := by
  have hf : ∀ f, t.flag f = u.flag f := fun f => by rw [State.flag, State.flag, hx]
  cases r <;> simp only [State.hasValue, hf]

/-! ## The commands -/

theorem sameAnswer_getRun (hx : t.x = u.x) (r : Byte) : SameAnswer (getRun r t) (getRun r u) := by
  unfold getRun
  cases Reg.ofNum r with
  | none => exact sameAnswer_respond hx _ _
  | some g =>
    simp only [hx, State.hasValue_eq_of_x_eq hx g]
    split <;> exact sameAnswer_respond hx _ _

/-- Phase P (R186): the samples recorded and the registers after the loop are the same. -/
theorem DifferInFirstBytes.phaseP (h : DifferInFirstBytes t u) (r : Option Rat) :
    SameAnswer (Machine.phaseP r t) (Machine.phaseP r u) := by
  cases r with
  | none => exact sameAnswer_respondStatus h.x_eq _
  | some b5 =>
    simp only [Machine.phaseP, samplesP_eq, loopSamples_eq_of_sameButFirst _ h.draws]
    refine sameAnswer_measpFinish ?_ b5 _
    simp only [h.x_eq, loopStatus_eq_of_sameButFirst _ h.draws]

theorem DifferInFirstBytes.meastRun (h : DifferInFirstBytes t u) : SameAnswer (Machine.meastRun t) (Machine.meastRun u) := by
  have h1 : DifferInFirstBytes (meastStart t) (meastStart u) := (h.setFlag .utstale false).setFlag .arith false
  obtain ⟨hr, h2⟩ := h1.phaseT
  unfold Machine.meastRun
  rw [h.flag_eq, hr]
  split
  · exact sameAnswer_meastFinish h2.x_eq _
  · exact sameAnswer_respond h.x_eq _ _

theorem DifferInFirstBytes.measpRun (h : DifferInFirstBytes t u) : SameAnswer (Machine.measpRun t) (Machine.measpRun u) := by
  have h1 : DifferInFirstBytes (measpStart t) (measpStart u) :=
    (((h.setFlag .utstale false).setFlag .arith false).setFlag .mfail false).setNsamp 0
  obtain ⟨hr, h2⟩ := h1.phaseT
  unfold Machine.measpRun
  rw [h.flag_eq, hr]
  split
  · exact h2.phaseP _
  · exact sameAnswer_respond h.x_eq _ _

/-- A read command (R142 to R144). -/
theorem DifferInFirstBytes.memRead_respondRead (h : DifferInFirstBytes t u) (a : Byte) (n : Nat) :
    SameAnswer (Machine.respondRead (memRead a n t).1 (memRead a n t).2)
      (Machine.respondRead (memRead a n u).1 (memRead a n u).2) := by
  rw [h.memRead_fst_eq]
  exact sameAnswer_respondRead (h.memRead_x_eq a n) _

/-- Every command answers two environments that differ in first bytes the same (R70). -/
theorem exec_sameAnswer (i : Instr) (h : DifferInFirstBytes t u) :
    ∃ t' u', exec i t = .next t' ∧ exec i u = .next u' ∧ SameAnswer t' u' := by
  cases i with
  | init =>
    have h1 : DifferInFirstBytes (initStart t) (initStart u) := (h.setFlag .idwarn false).setFlag .calerr false
    refine ⟨_, _, execInit_eq t, execInit_eq u, sameAnswer_respondStatus ?_ .ok⟩
    simp only [h.params_eq, h1.x_eq, loadErr_eq_of_sameButFirst _ h.draws, loadRegs_eq_of_sameButFirst _ h.draws]
  | meast => exact ⟨_, _, rfl, rfl, h.meastRun⟩
  | measp => exact ⟨_, _, rfl, rfl, h.measpRun⟩
  | get r => exact ⟨_, _, rfl, rfl, sameAnswer_getRun h.x_eq r⟩
  | rdb a => exact ⟨_, _, rfl, rfl, h.memRead_respondRead a 1⟩
  | rdw a => exact ⟨_, _, rfl, rfl, h.memRead_respondRead a 2⟩
  | rdt a => exact ⟨_, _, rfl, rfl, h.memRead_respondRead a 3⟩
  | wrr a d =>
    refine ⟨_, _, rfl, rfl, ?_⟩
    rw [h.memWrite_fst_eq]
    exact sameAnswer_respondWrite (h.memWrite_x_eq a d) _

end

/-- Settles O51: a transaction's value, success and flags ignore the first byte received, so every command answers the same. -/
theorem firstByteReceivedIsDiscarded : Obligations.FirstByteReceivedIsDiscarded := fun i s _ hds =>
  exec_sameAnswer i ⟨rfl, rfl, s.env.draw_sameButFirst hds⟩

end Machine
end Sys2Proof
end

section
/-! PROOFS of the family 30_encoding, the command words: the pseudo-instructions (`30_encoding.md` R111), the match and mask rows
(R102), the illegal words (R105). The decoder undoes the encoder (`decode_eq_ok_iff`), and a word fits a row exactly when the command
it decodes to has that row (`fits_opRow_iff`), which gives all R102 says. -/

namespace Sys2Proof

/-- Settles O11: the encoder on the five expansions. -/
theorem pseudoInstructionsAreGets : Obligations.PseudoInstructionsAreGets := ⟨rfl, rfl, rfl, rfl, rfl⟩

/-! ## The decoder and the encoder -/

section
variable {w : Word}

/-- A word is laid out from its fields when its `z` is zero. -/
theorem layWord_eq_of_fields {op : BitVec 4} {a d : Byte} (hop : (opField w).toNat = op.toNat) (hz : zField w = 0)
    (ha : aField w = a) (hd : dField w = d) : layWord op a d = w := by
  rw [← BitVec.eq_of_toNat_eq hop, ← ha, ← hd]
  exact (word_of_zField_zero hz).symm

theorem formatN_eq_ok_iff {i j : Instr} : formatN w i = .ok j ↔ (aField w = 0 ∧ dField w = 0) ∧ i = j := by
  simp [formatN, ite_eq_iff]

theorem formatA_eq_ok_iff {f : Byte → Instr} {j : Instr} : formatA w f = .ok j ↔ dField w = 0 ∧ f (aField w) = j := by
  simp [formatA, ite_eq_iff]

theorem decode_eq_ok_iff_decodeOp {i : Instr} : decode w = .ok i ↔ zField w = 0 ∧ decodeOp w = .ok i := by
  simp [decode, ite_eq_iff]

theorem decode_encode (i : Instr) : decode (encode i) = .ok i := by
  rw [decode_eq_ok_iff_decodeOp]
  cases i <;>
    simp [encode, decodeOp, zField_layWord, opField_layWord, aField_layWord, dField_layWord, formatN, formatA]

theorem encode_of_decodeOp {i : Instr} (hz : zField w = 0) (h : decodeOp w = .ok i) : encode i = w := by
  unfold decodeOp at h
  split at h
  case h_1 hop | h_2 hop | h_3 hop =>
    obtain ⟨⟨ha, hd⟩, rfl⟩ := formatN_eq_ok_iff.mp h
    exact layWord_eq_of_fields hop hz ha hd
  case h_4 hop | h_5 hop | h_6 hop | h_7 hop =>
    obtain ⟨hd, rfl⟩ := formatA_eq_ok_iff.mp h
    exact layWord_eq_of_fields hop hz rfl hd
  case h_8 hop =>
    cases h
    exact layWord_eq_of_fields hop hz rfl rfl
  case h_9 => cases h

/-- A word decodes to a command exactly when it is the command's word. -/
theorem decode_eq_ok_iff {i : Instr} : decode w = .ok i ↔ encode i = w := by
  refine ⟨fun h => ?_, fun h => h ▸ decode_encode i⟩
  obtain ⟨hz, h⟩ := decode_eq_ok_iff_decodeOp.mp h
  exact encode_of_decodeOp hz h

/-! ## The rows of match and mask -/

theorem opRow_fits_encode (i : Instr) : (opRow i).fits (encode i) = true := by
  cases i with
  | init => exact Laws.EncodeFitsRow.init
  | meast => exact Laws.EncodeFitsRow.meast
  | measp => exact Laws.EncodeFitsRow.measp
  | get r => exact Laws.EncodeFitsRow.get r
  | rdb a => exact Laws.EncodeFitsRow.rdb a
  | rdw a => exact Laws.EncodeFitsRow.rdw a
  | rdt a => exact Laws.EncodeFitsRow.rdt a
  | wrr a d => exact Laws.EncodeFitsRow.wrr a d

theorem opField_and (v w : Word) : opField (v &&& w) = opField v &&& opField w := BitVec.extractLsb'_and
theorem zField_and (v w : Word) : zField (v &&& w) = zField v &&& zField w := BitVec.extractLsb'_and
theorem dField_and (v w : Word) : dField (v &&& w) = dField v &&& dField w := BitVec.extractLsb'_and

/-- Under a mask that keeps `op` and `z`, a word that agrees with a laid-out one has its `op` and no `z`. -/
theorem opField_zField_of_mask {op : BitVec 4} {m : Word} (h : w &&& m = layWord op 0 0) (ho : opField m = .allOnes 4)
    (hz : zField m = .allOnes 12) : opField w = op ∧ zField w = 0 := by
  constructor
  · rw [← opField_layWord op 0 0, ← h, opField_and, ho, BitVec.and_allOnes]
  · rw [← zField_layWord op 0 0, ← h, zField_and, hz, BitVec.and_allOnes]

/-- The mask of format N keeps the whole word (R102). -/
theorem layWord_eq_of_maskN {op : BitVec 4} (h : w &&& 0xFFFFFFFF = layWord op 0 0) : layWord op 0 0 = w :=
  h.symm.trans BitVec.and_allOnes

/-- The mask of format A leaves `a` open (R102). -/
theorem layWord_eq_of_maskA {op : BitVec 4} (h : w &&& 0xFFFF00FF = layWord op 0 0) : layWord op (aField w) 0 = w := by
  obtain ⟨hop, hz⟩ := opField_zField_of_mask h rfl rfl
  refine layWord_eq_of_fields (congrArg _ hop) hz rfl ?_
  rw [← dField_layWord op 0 0, ← h, dField_and]
  exact BitVec.and_allOnes.symm

/-- The mask of format AD leaves `a` and `d` open (R102). -/
theorem layWord_eq_of_maskAD {op : BitVec 4} (h : w &&& 0xFFFF0000 = layWord op 0 0) :
    layWord op (aField w) (dField w) = w := by
  obtain ⟨hop, hz⟩ := opField_zField_of_mask h rfl rfl
  exact layWord_eq_of_fields (congrArg _ hop) hz rfl rfl

/-- A word fits the row of a command exactly when it decodes to a command with that row (R102). -/
theorem fits_opRow_iff {i : Instr} : (opRow i).fits w = true ↔ ∃ j, decode w = .ok j ∧ opRow j = opRow i := by
  simp only [decode_eq_ok_iff]
  constructor
  · intro h
    have hm := beq_iff_eq.mp h
    cases i with
    | init => exact ⟨.init, layWord_eq_of_maskN hm, rfl⟩
    | meast => exact ⟨.meast, layWord_eq_of_maskN hm, rfl⟩
    | measp => exact ⟨.measp, layWord_eq_of_maskN hm, rfl⟩
    | get => exact ⟨.get (aField w), layWord_eq_of_maskA hm, rfl⟩
    | rdb => exact ⟨.rdb (aField w), layWord_eq_of_maskA hm, rfl⟩
    | rdw => exact ⟨.rdw (aField w), layWord_eq_of_maskA hm, rfl⟩
    | rdt => exact ⟨.rdt (aField w), layWord_eq_of_maskA hm, rfl⟩
    | wrr => exact ⟨.wrr (aField w) (dField w), layWord_eq_of_maskAD hm, rfl⟩
  · rintro ⟨j, rfl, hj⟩
    exact hj ▸ opRow_fits_encode j

end

theorem exists_opRow_of_mem {r : OpRow} (h : r ∈ opTable) : ∃ i, r = opRow i := by
  simp only [opTable, List.mem_cons, List.not_mem_nil, or_false] at h
  rcases h with h | h | h | h | h | h | h | h <;> exact ⟨_, h⟩

/-- Settles O4: each clause is `fits_opRow_iff`; the rows are disjoint because decoding is a function. -/
theorem decoderFollowsMatchAndMask : Obligations.DecoderFollowsMatchAndMask := by
  refine ⟨fun w => ⟨?_, ?_⟩, fun w i h => fits_opRow_iff.mpr ⟨i, h, rfl⟩, ?_⟩
  · rintro ⟨i, h⟩
    exact ⟨opRow i, opRow_mem i, fits_opRow_iff.mpr ⟨i, h, rfl⟩⟩
  · rintro ⟨r, hr, hf⟩
    obtain ⟨i, rfl⟩ := exists_opRow_of_mem hr
    obtain ⟨j, hj, -⟩ := fits_opRow_iff.mp hf
    exact ⟨j, hj⟩
  · intro w r hr q hq hrf hqf
    obtain ⟨i, rfl⟩ := exists_opRow_of_mem hr
    obtain ⟨k, rfl⟩ := exists_opRow_of_mem hq
    obtain ⟨j, hj, hji⟩ := fits_opRow_iff.mp hrf
    obtain ⟨l, hl, hlk⟩ := fits_opRow_iff.mp hqf
    cases hj.symm.trans hl
    exact hji.symm.trans hlk

/-! ## Illegal words -/

section
variable (w : Word)

theorem toNat_opField : (opField w).toNat = w.toNat / 2 ^ 28 := by
  rw [opField, BitVec.extractLsb'_toNat, Nat.shiftRight_eq_div_pow]
  omega

theorem toNat_zField : (zField w).toNat = w.toNat / 2 ^ 16 % 2 ^ 12 := by
  rw [zField, BitVec.extractLsb'_toNat, Nat.shiftRight_eq_div_pow]

theorem toNat_aField : (aField w).toNat = w.toNat / 2 ^ 8 % 2 ^ 8 := by
  rw [aField, BitVec.extractLsb'_toNat, Nat.shiftRight_eq_div_pow]

theorem toNat_dField : (dField w).toNat = w.toNat % 2 ^ 8 := by
  rw [dField, BitVec.extractLsb'_toNat, Nat.shiftRight_zero]

/-- The clauses of R105 on the fields of the word. -/
theorem illegalWord_iff_fields : Machine.IllegalWord w ↔
    (opField w).toNat ∈ [0x0, 0x5, 0x6, 0x7, 0xC, 0xD, 0xE, 0xF] ∨ zField w ≠ 0 ∨
    ((opField w).toNat ∈ [0x1, 0x2, 0x3] ∧ (aField w ≠ 0 ∨ dField w ≠ 0)) ∨
    ((opField w).toNat ∈ [0x4, 0x8, 0x9, 0xA] ∧ dField w ≠ 0) := by
  simp only [ne_eq, ← BitVec.toNat_inj, toNat_opField, toNat_zField, toNat_aField, toNat_dField]
  rfl

theorem formatN_error_iff (i : Instr) : (∃ e, formatN w i = .error e) ↔ aField w ≠ 0 ∨ dField w ≠ 0 := by
  unfold formatN
  split <;> simp_all [← not_and_or]

theorem formatA_error_iff (f : Byte → Instr) : (∃ e, formatA w f = .error e) ↔ dField w ≠ 0 := by
  unfold formatA
  split <;> simp_all

/-- The decoder rejects the words R105 calls illegal: an operation at a time, then its format. -/
theorem decode_error_iff : (∃ e, decode w = .error e) ↔ Machine.IllegalWord w := by
  rw [illegalWord_iff_fields]
  unfold decode
  split
  next hz =>
    unfold decodeOp
    split
    case h_1 hop | h_2 hop | h_3 hop => simp [hop, hz, formatN_error_iff]
    case h_4 hop | h_5 hop | h_6 hop | h_7 hop => simp [hop, hz, formatA_error_iff]
    case h_8 hop => simp [hop, hz]
    case h_9 =>
      have hlt := (opField w).isLt
      refine iff_of_true ⟨_, rfl⟩ (.inl ?_)
      simp only [List.mem_cons, List.not_mem_nil, or_false, imp_false] at *
      omega
  next hz => exact iff_of_true ⟨_, rfl⟩ (.inr (.inl hz))

end

end Sys2Proof

namespace Sys2Proof.Machine

/-- A word offered in IDLE is taken: its port cycle is used up and the response port is low (R104). -/
theorem step_idle_offered {s : State} {w : Word} {rest : List PortIn} (hs : s.seq = .idle)
    (hh : s.host = ⟨false, some w⟩ :: rest) : step s = takeWord w (lowerRsp { s with host := rest }) := by
  simp [step, takePort, hh, hs]

/-- A rejected word is refused (R105). -/
theorem takeWord_error {s : State} {w : Word} {e : Illegal} (h : decode w = .error e) :
    takeWord w s = .next (refuse .illegal s) := by
  simp [takeWord, h]

/-- Settles O5: the decoder rejects the words of R105 (`decode_error_iff`), and a rejected word is refused, which only responds. -/
theorem illegalWordsChangeNothing : Obligations.IllegalWordsChangeNothing := by
  refine ⟨decode_error_iff, fun s w rest hs hh hw => ?_⟩
  obtain ⟨e, he⟩ := (decode_error_iff w).mpr hw
  exact ⟨_, (step_idle_offered hs hh).trans (takeWord_error he), rfl, rfl, rfl, rfl, rfl, rfl, rfl, rfl⟩

end Sys2Proof.Machine
end

section
/-! PROOFS of the family 30_encoding, the command port (`30_encoding.md` R104): a word taken in IDLE is answered once, and the block is
busy until the cycle after the answer. `Progress` says once what an event of a running step list can do: it goes on, or it answers.
That the answer comes is an induction on `remaining`, the steps left and the events left in the step. -/

namespace Sys2Proof.Machine

/-! ## What an event adds to the trace -/

/-- From `s` to `t` the response port keeps its value and the trace grows by no response. -/
def NoResponse (s t : State) : Prop := t.rsp = s.rsp ∧ ∃ evs, t.trace = s.trace ++ evs ∧ rspCount evs = 0

/-- `t` is the cycle of the one response since `s` (R103). -/
def Answers (s t : State) : Prop :=
  t.seq = .respond ∧ ∃ c v evs, t.rsp = some ⟨c, v⟩ ∧ t.trace = s.trace ++ evs ++ [.evRsp c v] ∧ rspCount evs = 0

section
variable {s t u : State}

theorem rspCount_append (es fs : List Event) : rspCount (es ++ fs) = rspCount es + rspCount fs := List.countP_append

theorem NoResponse.of_eq (hr : t.rsp = s.rsp) (ht : t.trace = s.trace) : NoResponse s t :=
  ⟨hr, [], by rw [ht, List.append_nil], rfl⟩

theorem NoResponse.of_event {e : Event} (he : rspCount [e] = 0) (hr : t.rsp = s.rsp) (ht : t.trace = s.trace ++ [e]) :
    NoResponse s t := ⟨hr, [e], ht, he⟩

theorem NoResponse.trans (h : NoResponse s t) (h' : NoResponse t u) : NoResponse s u := by
  obtain ⟨hr, es, ht, hes⟩ := h
  obtain ⟨hr', fs, ht', hfs⟩ := h'
  exact ⟨hr'.trans hr, es ++ fs, by rw [ht', ht, List.append_assoc], by rw [rspCount_append, hes, hfs]⟩

theorem NoResponse.answers_trans (h : NoResponse s t) (h' : Answers t u) : Answers s u := by
  obtain ⟨-, es, ht, hes⟩ := h
  obtain ⟨hseq, c, v, fs, hr, hu, hfs⟩ := h'
  exact ⟨hseq, c, v, es ++ fs, hr, by rw [hu, ht, List.append_assoc s.trace], by rw [rspCount_append, hes, hfs]⟩

/-! ## What answers -/

theorem answers_respond (c : Code) (v : Word) (s : State) : Answers s (respond c v s) :=
  ⟨rfl, c, v, [], rfl, by simp, rfl⟩

/-- A response from a state that differs from `s` in its registers and hidden state at most. -/
theorem answers_respond_of_eq (hr : t.rsp = s.rsp) (ht : t.trace = s.trace) (c : Code) (v : Word) : Answers s (respond c v t) :=
  (NoResponse.of_eq hr ht).answers_trans (answers_respond c v t)

theorem answers_respondRead (v : Int) (s : State) : Answers s (respondRead v s) := by
  unfold respondRead
  split <;> exact answers_respond ..

theorem answers_respondWrite (ok : Bool) (s : State) : Answers s (respondWrite ok s) := by
  unfold respondWrite
  split <;> exact answers_respond ..

theorem answers_getRun (r : Byte) (s : State) : Answers s (getRun r s) := by
  unfold getRun
  split
  · exact answers_respond ..
  · split <;> exact answers_respond ..

theorem answers_initFinish (err : Bool) (s : State) : Answers s (initFinish err s) := by
  apply answers_respond_of_eq
  all_goals split <;> split <;> simp

theorem answers_meastFinish (r : Option Rat) (s : State) : Answers s (meastFinish r s) := by
  cases r <;> exact answers_respond ..

theorem answers_measpFinish (b5 : Rat) (samples : List Nat) (s : State) : Answers s (measpFinish b5 samples s) := by
  unfold measpFinish failWith
  simp only
  split
  · exact answers_respond_of_eq (by simp) (by simp) ..
  · split
    · exact answers_respond_of_eq (by simp) (by simp) ..
    · exact answers_respond_of_eq rfl rfl ..

end

/-! ## How far a step list has to go -/

/-- A step of a step list: neither IDLE nor the cycle of a response. -/
def Seq.running (q : Seq) : Prop := q ≠ .idle ∧ q ≠ .respond

/-- An upper bound of the steps from `q` to the response, `q` included (R40). -/
def Seq.stepsLeft : Seq → Nat
  | .idle => 0
  | .respond => 0
  | .x0 => 2
  | .x1 => 1
  | .g0 => 1
  | .i n => 14 - n
  | .t n => 14 - n
  | .p n j => 10 - 3 * n - j
  | .p9 => 1

/-- An upper bound of the events before CLOSE in a transaction of `N` bytes (R120 to R124, R127): at most twenty a byte. -/
def txnTicksLeft (N : Nat) (s : State) : Nat :=
  match s.work.phase with
  | .closed => 20 * N + 2
  | .gap => 20 * (N - s.spi.byteCnt) + 1
  | .fall => 20 * (N - (s.spi.byteCnt + 1)) + 2 * (8 - s.spi.bitCnt) + 3
  | .rise => 20 * (N - (s.spi.byteCnt + 1)) + 2 * (8 - s.spi.bitCnt) + 2
  | .closing => 0

/-- How long a wait step waits (R262). -/
def Seq.waitUs : Seq → Nat
  | .t _ => Config.waitTUs
  | _ => Config.waitPUs

/-- The events left in a wait step (R262). -/
def waitTicksLeft (s : State) : Nat :=
  match s.work.timer with
  | none => waitCycles s.params s.seq.waitUs + 2
  | some n => n + 1

/-- An upper bound of the events left in the step in progress. -/
def ticksLeft (s : State) : Nat :=
  match frameOf s with
  | some out => txnTicksLeft out.length s
  | none => waitTicksLeft s

/-- What an event makes smaller: the steps left, or in the same step the events left. -/
def remaining (s : State) : ℕ ×ₗ ℕ := toLex (s.seq.stepsLeft, ticksLeft s)

/-- A command's step list is in progress and has not answered. -/
structure Running (s : State) : Prop where
  seq : s.seq.running
  fits : cmdFits s.seq s.work.cmd = true
  rsp : s.rsp = none

/-- What an event of a running step list does: no response and less remaining, or the response. -/
inductive Progress (s t : State) : Prop where
  | goesOn (quiet : NoResponse s t) (run : Running t) (less : remaining t < remaining s)
  | answers (h : Answers s t)

/-- The step that follows is entered, for the same command. -/
structure Advances (s t : State) : Prop where
  quiet : NoResponse s t
  cmd : t.work.cmd = s.work.cmd
  seq : t.seq.running
  fits : cmdFits t.seq s.work.cmd = true
  less : t.seq.stepsLeft < s.seq.stepsLeft

/-- `t` is in the same step of the same command as `s`. -/
structure SameStep (s t : State) : Prop where
  quiet : NoResponse s t
  cmd : t.work.cmd = s.work.cmd
  seq : t.seq = s.seq
  params : t.params = s.params

section
variable {s t u : State}

theorem SameStep.frameOf_eq (h : SameStep s t) : frameOf t = frameOf s := frameOf_congr h.seq h.cmd h.params

theorem SameStep.progress (h : SameStep s t) (hs : Running s) (hl : ticksLeft t < ticksLeft s) : Progress s t := by
  refine .goesOn h.quiet ⟨h.seq ▸ hs.seq, ?_, h.quiet.1.trans hs.rsp⟩ ?_
  · rw [h.seq, h.cmd]; exact hs.fits
  · exact Prod.Lex.toLex_lt_toLex.mpr (.inr ⟨by rw [h.seq], hl⟩)

theorem Advances.progress (h : Advances s t) (hs : Running s) : Progress s t := by
  refine .goesOn h.quiet ⟨h.seq, ?_, h.quiet.1.trans hs.rsp⟩ (Prod.Lex.toLex_lt_toLex.mpr (.inl h.less))
  rw [h.cmd]; exact h.fits

theorem SameStep.advances_trans (h : SameStep s t) (h' : Advances t u) : Advances s u where
  quiet := h.quiet.trans h'.quiet
  cmd := h'.cmd.trans h.cmd
  seq := h'.seq
  fits := h.cmd ▸ h'.fits
  less := h.seq ▸ h'.less

end

/-! ## Transaction steps -/

/-- What a transaction returned is stored and the step that follows is entered (R40, R41). -/
theorem advances_afterTxn {s : State} {out : List Byte} (hf : frameOf s = some out) (hc : cmdFits s.seq s.work.cmd = true)
    (r : Nat × List Byte) : Advances s (afterTxn r s) := by
  unfold frameOf at hf
  unfold afterTxn
  cases hq : s.seq with
  | x0 =>
    rw [hq] at hf hc
    cases hi : s.work.cmd with
    | none => simp [hi] at hf
    | some i =>
      cases i
      case init | meast | measp | get => simp [hi] at hf
      all_goals
        refine ⟨.of_eq rfl rfl, rfl, ?_, ?_, ?_⟩
        all_goals simp [hq, hi, Seq.running, cmdFits, usesX, Seq.stepsLeft]
  | i n =>
    rw [hq] at hf hc
    obtain ⟨e, he, -⟩ := Option.map_eq_some_iff.mp hf
    have hn : n.val + 1 < 14 := Nat.succ_lt_succ (List.getElem?_eq_some_iff.mp he).1
    simp only [he, nextI, hn, dite_true]
    refine ⟨.of_eq rfl rfl, rfl, by simp [Seq.running], hc, ?_⟩
    simp only [hq, Seq.stepsLeft]
    omega
  | t n =>
    rw [hq] at hf hc
    fin_cases n
    · exact ⟨.of_eq rfl rfl, rfl, by simp [Seq.running], hc, by simp [hq, Seq.stepsLeft]⟩
    · simp at hf
    · exact ⟨.of_eq rfl rfl, rfl, by simp [Seq.running], hc, by simp [hq, Seq.stepsLeft]⟩
    · simp at hf
  | p n j =>
    rw [hq] at hf hc
    fin_cases j
    · exact ⟨.of_eq rfl rfl, rfl, by simp [Seq.running], hc, by simp [hq, Seq.stepsLeft]; omega⟩
    · simp at hf
    · fin_cases n
      all_goals exact ⟨.of_eq rfl rfl, rfl, by simp [Seq.running, nextP], hc, by simp [hq, Seq.stepsLeft, nextP]⟩
  | _ => simp [hq] at hf

/-- The end of XFER changes registers and trace alone (R123). -/
theorem endXfer_eq (out : List Byte) (s : State) :
    ∃ x, endXfer out s = { s with x := x, trace := s.trace ++ [.evXfer out s.spi.byteCnt s.spi.rxBuf] } := by
  unfold endXfer
  simp only
  split <;> exact ⟨_, rfl⟩

/-- An event of a transaction: the session goes on, or it has ended and its result is handed over (R120 to R124). -/
theorem txnTick_cases (out : List Byte) (s : State) :
    (SameStep s (txnTick out s) ∧ txnTicksLeft out.length (txnTick out s) < txnTicksLeft out.length s) ∨
    ∃ r u, txnTick out s = afterTxn r u ∧ SameStep s u := by
  unfold txnTick
  cases hp : s.work.phase with
  | closed =>
    simp only [takeDraw_eq]
    split
    · refine .inl ⟨⟨.of_event rfl rfl rfl, rfl, rfl, rfl⟩, ?_⟩
      simp [txnTicksLeft, hp, Spi.begin]
    · exact .inr ⟨_, _, rfl, .of_event rfl rfl rfl, rfl, rfl, rfl⟩
  | gap =>
    simp only
    split
    next ho _ =>
      have hk := (List.getElem?_eq_some_iff.mp ho).1
      refine .inl ⟨⟨.of_eq rfl rfl, rfl, rfl, rfl⟩, ?_⟩
      simp only [txnTicksLeft, hp, Spi.load]
      omega
    next =>
      obtain ⟨x, hx⟩ := endXfer_eq out s
      rw [hx]
      exact .inl ⟨⟨.of_event rfl rfl rfl, rfl, rfl, rfl⟩, by simp [txnTicksLeft, hp]⟩
  | fall =>
    refine .inl ⟨⟨.of_eq rfl rfl, rfl, rfl, rfl⟩, ?_⟩
    simp [txnTicksLeft, hp, Spi.fall]
  | rise =>
    simp only
    split
    next hb =>
      refine .inl ⟨⟨.of_eq rfl rfl, rfl, rfl, rfl⟩, ?_⟩
      simp only [txnTicksLeft, hp, Spi.rise] at hb ⊢
      omega
    next =>
      refine .inl ⟨⟨.of_eq rfl rfl, rfl, rfl, rfl⟩, ?_⟩
      simp only [txnTicksLeft, hp, Spi.rise, Spi.endByte]
      omega
  | closing => exact .inr ⟨_, _, rfl, .of_event rfl rfl rfl, rfl, rfl, rfl⟩

theorem progress_txnStep {s : State} {out : List Byte} (hs : Running s) (hf : frameOf s = some out) : Progress s (txnStep s) := by
  unfold txnStep
  rw [hf]
  obtain ⟨h, hl⟩ | ⟨r, u, he, h⟩ := txnTick_cases out s
  · refine h.progress hs ?_
    simp only [ticksLeft, h.frameOf_eq, hf]
    exact hl
  · simp only [he]
    refine (h.advances_trans (advances_afterTxn (h.frameOf_eq.trans hf) ?_ r)).progress hs
    rw [h.seq, h.cmd]; exact hs.fits

/-! ## Wait steps and T3 -/

theorem progress_waitTick {s : State} {q : Seq} (hs : Running s) (hw : s.seq.waiting = true) (hq : q.running)
    (hc : cmdFits q s.work.cmd = true) (hl : q.stepsLeft < s.seq.stepsLeft) : Progress s (waitTick s.seq.waitUs q s) := by
  have ht : ticksLeft s = waitTicksLeft s := by rw [ticksLeft, frameOf_waiting hw]
  have hsame : ∀ t : State, SameStep s t → waitTicksLeft t < waitTicksLeft s → Progress s t := fun t h hlt => by
    refine h.progress hs ?_
    rw [ht, ticksLeft, h.frameOf_eq, frameOf_waiting hw]
    exact hlt
  unfold waitTick
  split
  next h0 => exact hsame _ ⟨.of_event rfl rfl rfl, rfl, rfl, rfl⟩ (by simp [waitTicksLeft, h0])
  next n h0 => exact hsame _ ⟨.of_eq rfl rfl, rfl, rfl, rfl⟩ (by simp [waitTicksLeft, h0])
  next => exact Advances.progress ⟨.of_eq rfl rfl, rfl, hq, hc, hl⟩ hs

/-- The arithmetic of phase T changes registers alone (R182, R183). -/
theorem compensateT_storeUt_eq (w : Bool) (v : Int) (s : State) : ∃ x, (compensateT (storeUt w v s)).2 = { s with x := x } := by
  rw [compensateT_eq]
  unfold storeUt
  split <;> split <;> exact ⟨_, rfl⟩

/-- The end of a temperature measurement (R182, R187): a response, or the first pressure step of MEASP. -/
theorem progress_stepT3 {s : State} (hs : Running s) (hq : s.seq = .t 3) : Progress s (stepT3 s) := by
  obtain ⟨x, hx⟩ := compensateT_storeUt_eq s.work.wok s.work.rd s
  unfold stepT3
  simp only [hx]
  split
  next hcmd =>
    split
    · exact .answers (answers_respond_of_eq rfl rfl ..)
    · refine Advances.progress ⟨.of_eq rfl rfl, rfl, by simp [Seq.running], ?_, by simp [hq, Seq.stepsLeft]⟩ hs
      simp [hcmd, cmdFits]
  next => exact .answers ((NoResponse.of_eq rfl rfl).answers_trans (answers_meastFinish ..))

/-! ## Every event of a step list -/

/-- The command of X0 has a frame (R40). -/
theorem exists_frameOf_x0 {s : State} (hq : s.seq = .x0) (hc : cmdFits s.seq s.work.cmd = true) : ∃ out, frameOf s = some out := by
  rw [hq] at hc
  obtain ⟨i, hi, hu⟩ := (Option.any_eq_true _ _).mp hc
  cases i
  case rdb | rdw | rdt | wrr => simp [frameOf, hq, hi]
  all_goals simp [usesX] at hu

/-- The thirteen reads of INIT have a frame each (R161). -/
theorem exists_frameOf_i {s : State} {n : Fin 14} (hq : s.seq = .i n) (hn : n.val ≠ 13) : ∃ out, frameOf s = some out := by
  have hlt : n.val < (loadOrder s.params).length := by simp [loadOrder]; omega
  simp [frameOf, hq, List.getElem?_eq_getElem hlt]

/-- One event of a running step list (R40, R41). -/
theorem progress_seqTick {s : State} (hs : Running s) : Progress s (seqTick s) := by
  have hrun := hs.seq
  have hfits := hs.fits
  unfold seqTick
  cases hq : s.seq with
  | idle => exact absurd hq hrun.1
  | respond => exact absurd hq hrun.2
  | x0 =>
    obtain ⟨out, hf⟩ := exists_frameOf_x0 hq hfits
    exact progress_txnStep hs hf
  | x1 =>
    simp only
    split
    · exact .answers (answers_respondWrite ..)
    · exact .answers (answers_respondRead ..)
  | g0 =>
    simp only
    split
    next => exact .answers (answers_getRun ..)
    next hne =>
      obtain ⟨i, hi, hu⟩ := (Option.any_eq_true _ _).mp (hq ▸ hfits)
      cases i
      case get r => exact absurd hi (hne r)
      all_goals simp [usesG] at hu
  | i n =>
    by_cases hn : n.val = 13
    · simp only [hn, if_true]
      exact .answers (answers_initFinish ..)
    · simp only [hn, if_false]
      obtain ⟨out, hf⟩ := exists_frameOf_i hq hn
      exact progress_txnStep hs hf
  | t n =>
    rw [hq] at hfits
    fin_cases n
    · exact progress_txnStep hs (by rw [frameOf, hq]; rfl)
    · have h := progress_waitTick (q := .t 2) hs (by rw [hq]; rfl) (by simp [Seq.running]) hfits (by simp [hq, Seq.stepsLeft])
      rwa [hq] at h
    · exact progress_txnStep hs (by rw [frameOf, hq]; rfl)
    · exact progress_stepT3 hs hq
  | p n j =>
    rw [hq] at hfits
    fin_cases j
    · exact progress_txnStep hs (by rw [frameOf, hq]; rfl)
    · have h := progress_waitTick (q := .p n 2) hs (by rw [hq]; rfl) (by simp [Seq.running]) hfits
        (by simp [hq, Seq.stepsLeft]; omega)
      rwa [hq] at h
    · exact progress_txnStep hs (by rw [frameOf, hq]; rfl)
  | p9 => exact .answers (answers_measpFinish ..)

/-! ## A word taken in IDLE -/

/-- A command taken enters its step list or is refused at once (R41, R106). -/
theorem start_cases {s : State} (hr : s.rsp = none) (i : Instr) :
    (Running (start i s) ∧ NoResponse s (start i s)) ∨ Answers s (start i s) := by
  unfold start
  cases i with
  | init => exact .inl ⟨⟨by simp [Seq.running], rfl, hr⟩, .of_eq rfl rfl⟩
  | meast | measp =>
    simp only
    split
    · exact .inl ⟨⟨by simp [Seq.running], rfl, hr⟩, .of_eq rfl rfl⟩
    · exact .inr (answers_respond ..)
  | get r =>
    simp only
    split
    · exact .inr (answers_respond ..)
    · split
      · exact .inl ⟨⟨by simp [Seq.running], rfl, hr⟩, .of_eq rfl rfl⟩
      · exact .inr (answers_respond ..)
  | _ => exact .inl ⟨⟨by simp [Seq.running], rfl, hr⟩, .of_eq rfl rfl⟩

/-- In `n` events from `t` on comes the one response since `s`, and the block is busy up to it (R104). -/
structure AnswersAfter (n : Nat) (s t : State) : Prop where
  busy : ∀ m, m ≤ n → (seqTicks m t).cmdReady = false
  silent : ∀ m, m < n → (seqTicks m t).rsp = none
  answers : Answers s (seqTicks n t)

section
variable {s t : State}

theorem Answers.cmdReady_eq (h : Answers s t) : t.cmdReady = false := by simp [State.cmdReady, h.1]

theorem Running.cmdReady_eq (h : Running s) : s.cmdReady = false := by simp [State.cmdReady, h.seq.1]

theorem Answers.answersAfter_zero (h : Answers s t) : AnswersAfter 0 s t where
  busy m hm := by rw [Nat.le_zero.mp hm]; exact h.cmdReady_eq
  silent m hm := absurd hm (Nat.not_lt_zero m)
  answers := h

theorem AnswersAfter.cons {n : Nat} (hs : Running s) (h : AnswersAfter n s (seqTick s)) : AnswersAfter (n + 1) s s where
  busy
    | 0, _ => hs.cmdReady_eq
    | m + 1, hm => h.busy m (Nat.le_of_succ_le_succ hm)
  silent
    | 0, _ => hs.rsp
    | m + 1, hm => h.silent m (Nat.lt_of_succ_lt_succ hm)
  answers := h.answers

theorem NoResponse.answersAfter_trans {n : Nat} {u : State} (h : NoResponse s t) (h' : AnswersAfter n t u) :
    AnswersAfter n s u := ⟨h'.busy, h'.silent, h.answers_trans h'.answers⟩

/-- A running step list answers, by induction on what remains. -/
theorem Running.exists_answersAfter (hs : Running s) : ∃ n, AnswersAfter n s s := by
  induction h : remaining s using WellFoundedLT.induction generalizing s with
  | ind r ih =>
    subst h
    cases progress_seqTick hs with
    | answers ha => exact ⟨1, ha.answersAfter_zero.cons hs⟩
    | goesOn hq hrun hl =>
      obtain ⟨n, hn⟩ := ih _ hl hrun rfl
      exact ⟨n + 1, (hq.answersAfter_trans hn).cons hs⟩

/-- A word taken in IDLE is answered (R104 to R106). -/
theorem exists_answersAfter_tick (hs : s.seq = .idle) (w : Word) : ∃ n, AnswersAfter n (lowerRsp s) (tick ⟨false, some w⟩ s) := by
  unfold tick
  simp only [hs, if_true]
  cases decode w with
  | error e => exact ⟨0, (answers_respond ..).answersAfter_zero⟩
  | ok i =>
    obtain ⟨hrun, hq⟩ | ha := start_cases (lowerRsp_rsp s) i
    · obtain ⟨n, hn⟩ := hrun.exists_answersAfter
      exact ⟨n, hq.answersAfter_trans hn⟩
    · exact ⟨0, ha.answersAfter_zero⟩

end

theorem State.cmdReady_iff (s : State) : s.cmdReady = true ↔ s.seq = .idle := by simp [State.cmdReady]

/-- A busy block does not look at the command port (R104). -/
theorem tick_busy {s : State} (hs : s.cmdReady = false) (c : Option Word) : tick ⟨false, c⟩ s = seqTick s := by
  have hq : s.seq ≠ .idle := by simpa [State.cmdReady] using hs
  simp [tick, hq]

/-- The event after `n` others. -/
theorem seqTicks_succ (n : Nat) (s : State) : seqTicks (n + 1) s = seqTick (seqTicks n s) := seqTicks_add n 1 s

/-- Settles O9: a word taken is answered after finitely many events (`exists_answersAfter_tick`), and the event after the response's
cycle is `endResponse`. The invariant is not needed: taking a word lowers the response port. -/
theorem readyIsLowUntilAfterTheResponse : Obligations.ReadyIsLowUntilAfterTheResponse := by
  refine ⟨State.cmdReady_iff, fun s w hs => by rw [tick_busy hs, tick_busy hs], fun s w _ hs => ?_⟩
  obtain ⟨n, hbusy, hsilent, hrespond, c, v, evs, hrsp, htrace, hevs⟩ :=
    exists_answersAfter_tick (s.cmdReady_iff.mp hs) w
  have hend : seqTicks (n + 1) (tick ⟨false, some w⟩ s) = endResponse (seqTicks n (tick ⟨false, some w⟩ s)) := by
    rw [seqTicks_succ, seqTick, hrespond]
  refine ⟨n, c, v, evs, hbusy, hsilent, hrsp, htrace, hevs, ?_⟩
  simp only [hend]
  exact ⟨rfl, rfl, rfl⟩

end Sys2Proof.Machine
end


section
/-! PROOFS of the family 41_register_transactions (`41_register_transactions.md` R142 to R146). `AnswersAfterTransaction` is what the
four commands have in common: one transaction, then one response. The model's `memRead_eq` and `memWrite_eq` give it for every frame;
what is left for a read command is that its data word is the big-endian value of the bytes received. -/

namespace Sys2Proof.Machine

/-! ## The data word of a read -/

/-- A byte appended to a bit vector is one more base-256 digit (`20_memory.md` R63). -/
theorem toNat_append_byte {n : Nat} (x : BitVec n) (b : Byte) : (x ++ b).toNat = x.toNat * 256 + b.toNat := by
  rw [BitVec.toNat_append, ← Nat.shiftLeft_add_eq_or_of_lt b.isLt, Nat.shiftLeft_eq]

/-- The data bytes of a full read, by their places in the frame (R141). -/
theorem Draw.reply_tail_of_full {d : Draw} {n : Nat} (h : d.full (n + 1) = true) :
    (d.reply (n + 1)).tail = (List.range n).map fun k => (d.reply (n + 1)).getD (k + 1) 0 := by
  have hlen : (d.reply (n + 1)).length = n + 1 := by simpa [Draw.full] using h
  refine List.ext_getElem (by simp [hlen]) fun k hk _ => ?_
  have hk' : k + 1 < (d.reply (n + 1)).length := by rw [List.length_tail] at hk; omega
  simp [List.getD_eq_getElem?_getD, List.getElem?_eq_getElem hk']

/-- A word with the value of the data bytes is what a full read yields, as 32 bits (R141). -/
theorem Draw.ofInt_value_of_full {d : Draw} {n : Nat} (h : d.full (n + 1) = true) {w : Word}
    (hw : w.toNat = bigEndian ((List.range n).map fun k => (d.reply (n + 1)).getD (k + 1) 0)) :
    BitVec.ofInt 32 (d.value n) = w := by
  rw [Draw.value, if_pos h, Draw.reply_tail_of_full h, ← hw, BitVec.ofInt_natCast, BitVec.ofNat_toNat, BitVec.setWidth_eq]

/-! ## One transaction, one response -/

/-- `t` is `s` after the one transaction of frame `out`, in the cycle of the response `c`, `r` (R120, R103). -/
def AnswersAfterTransaction (out : List Byte) (c : Code) (r : Word) (s t : State) : Prop :=
  t.rsp = some ⟨c, r⟩ ∧ t.trace = s.trace ++ txnEvents out (drawAt s 0) ++ [.evRsp c r] ∧
    t.x = { s.x with status := txnStatus out.length (drawAt s 0) s.x.status } ∧ t.env = envAfter 1 s.env ∧ t.seq = .respond ∧
    t.params = s.params ∧ t.host = s.host ∧ (s.spi.csN = true → t.spi.csN = true) ∧ (s.spi.sclk = true → t.spi.sclk = true)

section
variable {s : State}

/-- A transaction leaves the released pins at their idle levels (R126). -/
theorem txnSpi_released (d : Draw) (sp : Spi) :
    (sp.csN = true → (txnSpi d sp).csN = true) ∧ (sp.sclk = true → (txnSpi d sp).sclk = true) := by
  unfold txnSpi
  split
  · exact ⟨fun _ => rfl, fun _ => rfl⟩
  · exact ⟨id, id⟩

/-- Responding to what `TXN` left. -/
theorem respond_txn (out : List Byte) (c : Code) (r : Word) : AnswersAfterTransaction out c r s (respond c r (txn out s).2) := by
  obtain ⟨hcs, hclk⟩ := txnSpi_released (drawAt s 0) s.spi
  rw [txn_eq]
  exact ⟨rfl, rfl, rfl, rfl, rfl, rfl, rfl, hcs, hclk⟩

/-- A read command's answer: `w` when all the bytes were exchanged, else XFERFAIL with the sentinel (R142 to R144). -/
theorem respondRead_memRead (a : Byte) (n : Nat) {w : Word}
    (hw : w.toNat = bigEndian ((List.range n).map fun k => ((drawAt s 0).reply (n + 1)).getD (k + 1) 0)) :
    AnswersAfterTransaction (frameRead a n) (if (drawAt s 0).full (n + 1) then .ok else .xferFail)
      (if (drawAt s 0).full (n + 1) then w else 0xFFFFFFFF) s (respondRead (memRead a n s).1 (memRead a n s).2) := by
  have hv : (memRead a n s).1 = (drawAt s 0).value n := by rw [memRead_eq]
  simp only [respondRead, hv, Draw.value_eq_neg_one]
  cases hf : (drawAt s 0).full (n + 1) with
  | false => exact respond_txn ..
  | true =>
    rw [Draw.ofInt_value_of_full hf hw]
    exact respond_txn ..

/-- A write command's answer: zero when all three bytes were exchanged, else XFERFAIL with the sentinel (R146). -/
theorem respondWrite_memWrite (a v : Byte) :
    AnswersAfterTransaction (frameWrite a v) (if (drawAt s 0).full 3 then .ok else .xferFail)
      (if (drawAt s 0).full 3 then 0 else 0xFFFFFFFF) s (respondWrite (memWrite a v s).1 (memWrite a v s).2) := by
  have hok : (memWrite a v s).1 = (drawAt s 0).full 3 := by rw [memWrite_eq]
  rw [hok, respondWrite]
  cases (drawAt s 0).full 3 <;> exact respond_txn ..

end

/-! ## The commands -/

/-- Settles O15: the read of one data byte, whose word is that byte zero-extended. -/
theorem rdbReadsOneByte : Obligations.RdbReadsOneByte := fun a _ =>
  ⟨_, rfl, respondRead_memRead a 1 (by simp [bigEndian, toNat_append_byte])⟩

/-- Settles O16: the read of two data bytes, whose word is both of them big-endian. -/
theorem rdwReadsTwoBytes : Obligations.RdwReadsTwoBytes := fun a _ =>
  ⟨_, rfl, respondRead_memRead a 2 (by simp [bigEndian, toNat_append_byte, List.range_succ])⟩

/-- Settles O17: the read of three data bytes, whose word is all of them big-endian and unshifted. -/
theorem rdtReadsThreeBytes : Obligations.RdtReadsThreeBytes := fun a _ =>
  ⟨_, rfl, respondRead_memRead a 3 (by simp [bigEndian, toNat_append_byte, List.range_succ])⟩

/-- Settles O18: the write frame ends with its pad byte, and nothing but the count of bytes exchanged is used. -/
theorem wrrWritesOneByte : Obligations.WrrWritesOneByte := fun a v _ => ⟨_, rfl, respondWrite_memWrite a v⟩

end Sys2Proof.Machine
end

section
/-! PROOFS of the family 42_calibration_loader: what INIT leaves in the register file (`42_calibration_loader.md` R160 to R166). The
closed form of the load loop (`loadAll_eq`) is read register by register and field by field, for any list of rows; LOAD_ORDER then
gives the rows. -/

namespace Sys2Proof.Machine

/-! ## The casts of a value read -/

/-- A read of `n` data bytes yields the sentinel or `n` bytes (R141). -/
theorem Draw.value_bounds (n : Nat) (d : Draw) : -1 ≤ d.value n ∧ d.value n < 256 ^ n := by
  cases h : d.full (n + 1) with
  | false =>
    have hpos : (0 : Int) < 256 ^ n := by positivity
    rw [(Draw.value_eq_neg_one n d).mpr h]
    omega
  | true =>
    obtain ⟨h0, h1⟩ := Draw.value_range n d h
    exact ⟨by omega, h1⟩

theorem Cast.s16_value (d : Draw) : Cast.s16.apply (d.value 2) = loadedSigned (d.value 2) := by
  obtain ⟨h0, h1⟩ := Draw.value_bounds 2 d
  simp only [Cast.apply, sext, loadedSigned]
  split <;> split <;> omega

theorem Cast.u16_value (d : Draw) : Cast.u16.apply (d.value 2) = loadedUnsigned 65535 (d.value 2) := by
  obtain ⟨h0, h1⟩ := Draw.value_bounds 2 d
  simp only [Cast.apply, loadedUnsigned]
  split <;> omega

theorem Cast.u8_value (d : Draw) : Cast.u8.apply (d.value 1) = loadedUnsigned 255 (d.value 1) := by
  obtain ⟨h0, h1⟩ := Draw.value_bounds 1 d
  simp only [Cast.apply, loadedUnsigned]
  split <;> omega

/-! ## The load loop -/

section
variable {es : List LoadEntry}

/-- A load writes each register once, so a register holds the cast of its own read, whatever the other reads gave (R163). -/
theorem loadRegs_read_reg (hne : ∀ e ∈ es, e.reg ≠ .status) (hfit : ∀ e ∈ es, ∀ v, e.reg.holds (e.cast.apply v))
    (hnodup : (es.map LoadEntry.reg).Nodup) {k : Nat} {e : LoadEntry} (he : es[k]? = some e) (D : Nat → Draw) (x : RegFile) :
    (loadRegs es D x).read e.reg = e.cast.apply ((D k).value e.n) := by
  induction es generalizing k D x with
  | nil => simp at he
  | cons e' es ih =>
    obtain ⟨hnew, hnodup⟩ := List.nodup_cons.mp hnodup
    cases k with
    | zero =>
      obtain rfl : e' = e := by simpa using he
      have hlater : ∀ f ∈ es, f.reg ≠ e'.reg := fun f hf heq => hnew (heq ▸ List.mem_map_of_mem hf)
      rw [loadRegs, loadRegs_read es _ _ _ (hne e' (.head _)) hlater, RegFile.read_write_same _ _ (hfit e' (.head _) _)]
    | succ k =>
      exact ih (fun f hf => hne f (.tail _ hf)) (fun f hf => hfit f (.tail _ hf)) hnodup (by simpa using he) _ _

/-- What no transaction changes in STATUS, a load does not change. -/
theorem loadRegs_status_keeps {α : Type} {g : Half → α} (hg : ∀ N d st, g (txnStatus N d st) = g st)
    (hne : ∀ e ∈ es, e.reg ≠ .status) (D : Nat → Draw) (x : RegFile) : g (loadRegs es D x).status = g x.status := by
  induction es generalizing D x with
  | nil => rfl
  | cons e es ih => rw [loadRegs_status e es D x (hne e (.head _)), ih fun f hf => hne f (.tail _ hf), hg]

/-- The frame lengths of a list of rows, split at the first row. -/
theorem frameLengths_cons {e : LoadEntry} {N : Nat → Nat}
    (hN : (e :: es).map (fun e => e.n + 1) = (List.range (e :: es).length).map N) :
    e.n + 1 = N 0 ∧ es.map (fun e => e.n + 1) = (List.range es.length).map fun k => N (k + 1) := by
  simpa [List.range_succ_eq_map, Function.comp_def] using hN

/-- A load fails when one of its reads, with frames of `N 0`, `N 1`, … bytes, is not full (R160). -/
theorem loadErr_eq {N : Nat → Nat} (hN : es.map (fun e => e.n + 1) = (List.range es.length).map N) (D : Nat → Draw) :
    loadErr es D = (List.range es.length).any fun k => !(D k).full (N k) := by
  induction es generalizing D N with
  | nil => rfl
  | cons e es ih =>
    obtain ⟨h0, hN⟩ := frameLengths_cons hN
    rw [loadErr, ih hN, h0, List.length_cons, List.range_succ_eq_map, List.any_cons, List.any_map]
    rfl

/-- The fields of STATUS after a load: BUSUNAV and XFERERR gather what its transactions raise (R131). -/
theorem statusGet_loadRegs {N : Nat → Nat} (hN : es.map (fun e => e.n + 1) = (List.range es.length).map N)
    (hne : ∀ e ∈ es, e.reg ≠ .status) (f : StatusField) (D : Nat → Draw) (x : RegFile) :
    statusGet f (loadRegs es D x).status =
      (statusGet f x.status || (decide (f = .busunav) && (List.range es.length).any fun k => !(D k).avail) ||
        (decide (f = .xfererr) && (List.range es.length).any fun k => (D k).avail && !(D k).full (N k))) := by
  induction es generalizing D x N with
  | nil => simp [loadRegs]
  | cons e es ih =>
    obtain ⟨h0, hN⟩ := frameLengths_cons hN
    rw [loadRegs_status e es D x (hne e (.head _)), ih hN fun f hf => hne f (.tail _ hf), statusGet_txnStatus, h0, List.length_cons,
      List.range_succ_eq_map]
    simp only [List.any_cons, List.any_map, Function.comp_def]
    by_cases hb : f = .busunav
    · simp [hb, Bool.or_left_comm, Bool.or_assoc]
    · by_cases hx : f = .xfererr <;> simp [hb, hx, Bool.or_left_comm, Bool.or_assoc]

end

/-! ## LOAD_ORDER -/

section
variable (p : Params)

/-- Every register can hold what its cast gives, of the sentinel too (R161, R163). -/
theorem loadOrder_fits : ∀ e ∈ loadOrder p, ∀ v, e.reg.holds (e.cast.apply v) := by
  have hs := Cast.s16_range
  have hu := Cast.u16_range
  have hb := Cast.u8_range
  simp only [loadOrder, List.forall_mem_cons]
  exact ⟨hs, hs, hs, hu, hu, hu, hs, hs, hs, hs, hs, hb, hb, by simp⟩

theorem loadOrder_reg_nodup : ((loadOrder p).map LoadEntry.reg).Nodup := by simp [loadOrder]

theorem loadOrder_length : (loadOrder p).length = 13 := rfl

/-- The frame of read `k`: three bytes for a coefficient, two for an identity byte (R161). -/
theorem loadOrder_frameLengths :
    (loadOrder p).map (fun e => e.n + 1) = (List.range (loadOrder p).length).map fun k => if k < 11 then 3 else 2 := rfl

end

/-! ## The register file after INIT -/

/-- The register file INIT leaves (R160). -/
def initRegs (s : State) : RegFile :=
  let x := loadRegs (loadOrder s.params) (drawAt s) (initStart s).x
  { x with status := initStatus (loadErr (loadOrder s.params) (drawAt s)) x }

/-- A field of STATUS after a field was set. -/
theorem statusGet_set_true (f g : StatusField) (st : Half) :
    statusGet f (statusSet g true st) = (decide (f = g) || statusGet f st) := by
  by_cases h : f = g <;> simp [statusGet_set, h]

/-- A field of STATUS at the end of INIT (R160, R164, R165). -/
theorem statusGet_initStatus (f : StatusField) (err : Bool) (x : RegFile) :
    statusGet f (initStatus err x) = (decide (f = .initd) || (decide (f = .calerr) && err) ||
      (decide (f = .idwarn) && x.chipid != 0x55) || statusGet f x.status) := by
  have hid : x.chipid ≠ Config.chipIdExpected ↔ (x.chipid != 0x55) = true := bne_iff_ne.symm
  simp only [initStatus, hid]
  cases x.chipid != 0x55 <;> cases err <;> simp [statusGet_set_true, Bool.or_assoc]

theorem initStatus_keeps {α : Type} {g : Half → α} (hg : ∀ f b st, g (statusSet f b st) = g st) (err : Bool) (x : RegFile) :
    g (initStatus err x) = g x.status := by
  unfold initStatus
  rw [hg]
  dsimp only
  split <;> split <;> simp only [hg]

section
variable (s : State)

/-- INIT answers OK and leaves the registers `initRegs`. -/
theorem exec_init_regs : ∃ t, exec .init s = .next t ∧ t.x = initRegs s ∧ ∃ v, t.rsp = some ⟨.ok, v⟩ :=
  ⟨_, execInit_eq s, rfl, _, rfl⟩

/-- After INIT the register of row `k` of LOAD_ORDER holds the cast of the value of read `k` (R160 to R163). -/
theorem initRegs_read {k n : Nat} {r : Reg} {c : Cast} (hrow : ∃ a, (loadOrder s.params)[k]? = some ⟨r, a, n, c⟩) :
    (initRegs s).read r = c.apply ((drawAt s k).value n) := by
  obtain ⟨a, he⟩ := hrow
  have hne := loadOrder_reg_ne_status s.params
  exact (RegFile.read_status _ _ _ (hne _ (List.mem_of_getElem? he))).trans
    (loadRegs_read_reg hne (loadOrder_fits _) (loadOrder_reg_nodup _) he _ _)

theorem initRegs_read_chipid : (initRegs s).read .chipid = loadedUnsigned 255 ((drawAt s 11).value 1) :=
  (initRegs_read s ⟨_, rfl⟩).trans (Cast.u8_value _)

theorem initRegs_read_chipver : (initRegs s).read .chipver = loadedUnsigned 255 ((drawAt s 12).value 1) :=
  (initRegs_read s ⟨_, rfl⟩).trans (Cast.u8_value _)

/-- A failed ID read stores 0xFF (R164). -/
theorem initRegs_chipid_of_not_full (h : (drawAt s 11).full 2 = false) : (initRegs s).chipid = 0xFF := by
  have hr : ((initRegs s).chipid.toNat : Int) = loadedUnsigned 255 ((drawAt s 11).value 1) := initRegs_read_chipid s
  rw [(Draw.value_eq_neg_one 1 _).mpr h, loadedUnsigned, if_pos rfl] at hr
  exact BitVec.eq_of_toNat_eq (by exact_mod_cast hr)

/-- What no field write changes in STATUS, INIT does not change. -/
theorem initRegs_status_keeps {α : Type} {g : Half → α} (hset : ∀ f b st, g (statusSet f b st) = g st)
    (htxn : ∀ N d st, g (txnStatus N d st) = g st) : g (initRegs s).status = g s.x.status := by
  rw [initRegs, initStatus_keeps hset, loadRegs_status_keeps htxn (loadOrder_reg_ne_status _)]
  simp only [initStart, State.setFlag_x, hset]

/-- Every one-bit field of STATUS after INIT (R160, R164 to R166). -/
theorem statusGet_initRegs (f : StatusField) :
    statusGet f (initRegs s).status = match f with
      | .initd => true
      | .idwarn => (initRegs s).chipid != 0x55
      | .calerr => (List.range 13).any fun k => !(drawAt s k).full (if k < 11 then 3 else 2)
      | .busunav => s.flag .busunav || (List.range 13).any fun k => !(drawAt s k).avail
      | .xfererr => s.flag .xfererr ||
          (List.range 13).any fun k => (drawAt s k).avail && !(drawAt s k).full (if k < 11 then 3 else 2)
      | f => s.flag f := by
  have hload := statusGet_loadRegs (loadOrder_frameLengths s.params) (loadOrder_reg_ne_status s.params) f (drawAt s) (initStart s).x
  have hstart : statusGet f (initStart s).x.status = if f = .idwarn ∨ f = .calerr then false else s.flag f := by
    cases f <;> simp [initStart, statusGet_set, State.flag]
  rw [initRegs, statusGet_initStatus, loadErr_eq (loadOrder_frameLengths s.params), hload, hstart]
  cases f <;> simp [loadOrder_length]

/-- The registers with a value once INITD is 1 (R241). -/
theorem State.hasValue_of_calibration {r : Reg} (h : r.calibration = true) : s.hasValue r = s.flag .initd := by
  cases r
  case status | temp | press | ut => simp [Reg.calibration] at h
  all_goals rfl

end

/-! ## The obligations -/

/-- Settles O23: each register is that of one row of LOAD_ORDER, which gives its read and its cast. -/
theorem initLoadsCalibration : Obligations.InitLoadsCalibration := by
  intro s
  obtain ⟨t, ht, hx, -⟩ := exec_init_regs s
  refine ⟨t, ht, ?_⟩
  rw [hx]
  refine ⟨fun q hq => ?_, fun q hq => ?_, initRegs_read_chipid s, initRegs_read_chipver s⟩
  · exact (initRegs_read s (by fin_cases hq <;> exact ⟨_, rfl⟩)).trans (Cast.s16_value _)
  · exact (initRegs_read s (by fin_cases hq <;> exact ⟨_, rfl⟩)).trans (Cast.u16_value _)

/-- Settles O24: the one-bit fields by `statusGet_initRegs`; NSAMP and the hardwired bits because no field write and no transaction
reaches them; the readings because LOAD_ORDER does not name them. -/
theorem initSetsItsFlags : Obligations.InitSetsItsFlags := by
  intro s
  obtain ⟨t, ht, hx, hrsp⟩ := exec_init_regs s
  have hflag (f : StatusField) : t.flag f = statusGet f (initRegs s).status := by rw [State.flag, hx]
  have hinitd : t.flag .initd = true := (hflag _).trans (statusGet_initRegs s .initd)
  have hidwarn : t.flag .idwarn = ((initRegs s).chipid != 0x55) := (hflag _).trans (statusGet_initRegs s .idwarn)
  have hkept : ∀ f ∈ [StatusField.tvalid, .pvalid, .utstale, .mfail, .arith], t.flag f = s.flag f := fun f hf => by
    rw [hflag, statusGet_initRegs]
    fin_cases hf <;> rfl
  have hnsamp : nsampGet (initRegs s).status = s.nsamp := initRegs_status_keeps s nsampGet_set nsampGet_txnStatus
  have hreserved : statusReserved (initRegs s).status = statusReserved s.x.status :=
    initRegs_status_keeps s statusReserved_set statusReserved_txnStatus
  obtain ⟨hut, htemp, hpress⟩ := loadRegs_readings s.params (drawAt s) (initStart s).x
  refine ⟨t, ht, hinitd, hx ▸ hidwarn, fun hid => ?_, hrsp, (hflag _).trans (statusGet_initRegs s .calerr),
    (hflag _).trans (statusGet_initRegs s .busunav), (hflag _).trans (statusGet_initRegs s .xfererr), hkept,
    by rw [State.nsamp, hx, hnsamp], hx ▸ hreserved, hx ▸ hut, hx ▸ htemp, hx ▸ hpress,
    fun r hr => (State.hasValue_of_calibration t hr).trans hinitd⟩
  have hff := initRegs_chipid_of_not_full s hid
  exact ⟨hx ▸ hff, by rw [hidwarn, hff]; rfl⟩

end Sys2Proof.Machine
end

section
/-! PROOFS of the family 43_measurement: what MEAST and MEASP leave in the register file and answer (`43_measurement.md` R180 to
R193). Phase T is read off `phaseT_regs` and the samples off `samplesP_eq`, both from any state, so the lemmas serve both commands;
`afterLoop` is where MEASP stands when its loop ends, and the three ways `measpFinish` can go from there are the cases of R191 to
R193. -/

namespace Sys2Proof.Machine

/-! ## Samples -/

/-- The loop of phase P records, in order, the samples of the iterations whose write and read were full (R188). -/
theorem loopSamples_eq_filter_map (n : Nat) (D : Nat → Draw) (acc : List Nat) :
    loopSamples n D acc = acc ++ ((List.range n).filter fun i => (D (2 * i)).full 3 && (D (2 * i + 1)).full 4).map
      fun i => rawSample ((D (2 * i + 1)).value 3) := by
  induction n generalizing D acc with
  | zero => simp [loopSamples]
  | succ n ih =>
    rw [loopSamples, ih, List.range_succ_eq_map, List.filter_cons, List.filter_map, apply_ite (List.map _), List.map_cons,
      List.map_map]
    cases (D 0).full 3 && (D 1).full 4 <;> simp [Function.comp_def, Nat.mul_add, Nat.add_right_comm]

/-- What no transaction changes in STATUS, the loop of phase P does not change. -/
theorem loopStatus_keeps {α : Type} {g : Half → α} (hg : ∀ N d st, g (txnStatus N d st) = g st) (n : Nat) (D : Nat → Draw)
    (st : Half) : g (loopStatus n D st) = g st := by
  induction n generalizing D st with
  | zero => rfl
  | succ n ih => rw [loopStatus, ih, hg, hg]

section
variable {f : StatusField} (hb : f ≠ .busunav) (hx : f ≠ .xfererr)
include hb hx

theorem statusGet_txnStatus_of_ne (N : Nat) (d : Draw) (st : Half) : statusGet f (txnStatus N d st) = statusGet f st := by
  simp [statusGet_txnStatus, hb, hx]

theorem State.flag_samplesP (n : Nat) (acc : List Nat) (s : State) : (samplesP n (acc, s)).2.flag f = s.flag f := by
  rw [samplesP_eq]
  exact loopStatus_keeps (statusGet_txnStatus_of_ne hb hx) n _ _

end

/-! ## Phase T -/

section
variable (s : State)

/-- The temperature sample of a phase T from `s` is valid (R183). -/
def validT : Bool := (drawAt s 0).full 3 && (drawAt s 1).full 3

/-- What a phase T from `s` gets from `CALC_T` (R182, R183). -/
def answerT : Option (Rat × Int) := calcT (utAfter s) (s.x.read .ac5) (s.x.read .ac6) (s.x.read .mc) (s.x.read .md)

theorem regsT_read_ut : (regsT s).read .ut = utAfter s := by
  unfold regsT utAfter
  cases h : (drawAt s 0).full 3 && (drawAt s 1).full 3 with
  | false => rfl
  | true =>
    obtain ⟨h0, h1⟩ := Draw.value_range 2 _ (Bool.and_eq_true_iff.mp h).2
    exact toNat_ofInt_fits h0 (by omega)

/-- Phase T gives `CALC_T` registers that differ from those before it in STATUS and UT alone (R183). -/
theorem regsT_eq : ∃ st ut, regsT s = { s.x with status := st, ut := ut } := by
  unfold regsT
  dsimp only
  split <;> exact ⟨_, _, rfl⟩

theorem calcTOf_regsT : calcTOf (regsT s) = answerT s := by
  unfold calcTOf
  rw [regsT_read_ut]
  obtain ⟨st, ut, h⟩ := regsT_eq s
  rw [h]
  rfl

theorem statusGet_regsT (f : StatusField) : statusGet f (regsT s).status = (decide (f = .utstale) && !validT s ||
    statusGet f (txnStatus 3 (drawAt s 1) (txnStatus 3 (drawAt s 0) s.x.status))) := by
  unfold regsT validT
  cases (drawAt s 0).full 3 && (drawAt s 1).full 3 <;> simp [statusGet_set_true]

variable {s}

/-- Phase T with an arithmetic fault (R185). -/
theorem phaseT_of_fault (h : answerT s = none) : (phaseT s).1 = none ∧
    (phaseT s).2.x = { regsT s with status := statusSet .arith true (regsT s).status } := by
  have hT := phaseT_regs s
  rwa [calcTOf_regsT, h] at hT

/-- Phase T with a temperature (R182). -/
theorem phaseT_of_temperature {b5 : Rat} {T : Int} (h : answerT s = some (b5, T)) : (phaseT s).1 = some b5 ∧
    (phaseT s).2.x = { regsT s with temp := BitVec.ofInt 32 T, status := statusSet .tvalid true (regsT s).status } := by
  have hT := phaseT_regs s
  rwa [calcTOf_regsT, h] at hT

variable (s)

theorem phaseT_read_ut : (phaseT s).2.x.read .ut = utAfter s := by
  rw [← regsT_read_ut, (phaseT_regs s).2]
  cases calcTOf (regsT s) <;> rfl

/-- Phase T writes no register but STATUS, UT and TEMP. -/
theorem phaseT_eq : ∃ st ut temp, (phaseT s).2.x = { s.x with status := st, ut := ut, temp := temp } := by
  obtain ⟨st, ut, h⟩ := regsT_eq s
  rw [(phaseT_regs s).2, h]
  split <;> exact ⟨_, _, _, rfl⟩

/-- The fields of STATUS after phase T (R131, R182, R183, R185). -/
theorem State.flag_phaseT (f : StatusField) : (phaseT s).2.flag f = match f with
    | .utstale => s.flag .utstale || !validT s
    | .tvalid => s.flag .tvalid || (answerT s).isSome
    | .arith => s.flag .arith || (answerT s).isNone
    | .busunav => s.flag .busunav || !(drawAt s 0).avail || !(drawAt s 1).avail
    | .xfererr => s.flag .xfererr || ((drawAt s 0).avail && !(drawAt s 0).full 3) || ((drawAt s 1).avail && !(drawAt s 1).full 3)
    | f => s.flag f := by
  have hanswer : (phaseT s).2.flag f =
      (decide (f = if (answerT s).isNone then .arith else .tvalid) || statusGet f (regsT s).status) := by
    cases h : answerT s with
    | none => rw [State.flag, (phaseT_of_fault h).2, statusGet_set_true]; rfl
    | some r => rw [State.flag, (phaseT_of_temperature h).2, statusGet_set_true]; rfl
  rw [hanswer, statusGet_regsT, statusGet_txnStatus, statusGet_txnStatus]
  cases answerT s <;> cases f <;> simp [State.flag, Bool.or_comm, Bool.or_left_comm]

theorem phaseT_press : (phaseT s).2.x.press = s.x.press := by
  obtain ⟨st, ut, temp, h⟩ := phaseT_eq s
  rw [h]

theorem phaseT_temp_of_fault (h : answerT s = none) : (phaseT s).2.x.temp = s.x.temp := by
  obtain ⟨st, ut, hr⟩ := regsT_eq s
  rw [(phaseT_of_fault h).2, hr]

theorem phaseT_read_temp {b5 : Rat} {T : Int} (h : answerT s = some (b5, T)) : (phaseT s).2.x.read .temp = T := by
  have hfits := (fitsS32_iff T).mp (calcT_fits h)
  rw [(phaseT_of_temperature h).2]
  exact toInt_ofInt32_fits (by omega) (by omega)

theorem State.nsamp_phaseT : (phaseT s).2.nsamp = s.nsamp := by
  have hT : nsampGet (regsT s).status = s.nsamp := by
    unfold regsT
    dsimp only
    split <;> simp [State.nsamp]
  rw [State.nsamp, (phaseT_regs s).2]
  split <;> rw [nsampGet_set, hT]

end

/-! ## MEAST, and MEASP up to phase P -/

section
variable {s : State}

/-- What phase T measures does not depend on STATUS, which is all the start of a command changes. -/
@[simp] theorem validT_meastStart : validT (meastStart s) = validT s := rfl
@[simp] theorem validT_measpStart : validT (measpStart s) = validT s := rfl
@[simp] theorem answerT_meastStart : answerT (meastStart s) = answerT s := rfl
@[simp] theorem answerT_measpStart : answerT (measpStart s) = answerT s := rfl

@[simp] theorem State.flag_respondStatus (f : StatusField) (c : Code) (s : State) : (respondStatus c s).flag f = s.flag f := rfl

/-- MEAST clears UTSTALE and ARITH (R181). -/
theorem State.flag_meastStart (f : StatusField) :
    (meastStart s).flag f = if f = .arith then false else if f = .utstale then false else s.flag f := by
  simp only [meastStart, State.flag_setFlag]

/-- MEASP clears UTSTALE, ARITH and MFAIL (R186). -/
theorem State.flag_measpStart (f : StatusField) : (measpStart s).flag f =
    if f = .mfail then false else if f = .arith then false else if f = .utstale then false else s.flag f := by
  simp only [measpStart, State.flag_setNsamp, State.flag_setFlag]

/-- MEAST is phase T and an answer (R181). -/
theorem exec_meast (hi : s.flag .initd = true) : exec .meast s =
    .next (respondStatus (if (answerT s).isNone then .arith else .ok) (phaseT (meastStart s)).2) := by
  have hr : (phaseT (meastStart s)).1 = (answerT s).map Prod.fst := by rw [(phaseT_regs _).1, calcTOf_regsT, answerT_meastStart]
  simp only [exec, execMeast, meastRun, hi, if_true, hr]
  cases answerT s <;> rfl

/-- MEASP ends after phase T on an arithmetic fault (R187). -/
theorem exec_measp_of_fault (hi : s.flag .initd = true) (h : answerT s = none) :
    exec .measp s = .next (respondStatus .arith (phaseT (measpStart s)).2) := by
  simp only [exec, execMeasp, measpRun, hi, if_true, (phaseT_of_fault (answerT_measpStart.trans h)).1]
  rfl

/-! ## The loop of phase P -/

/-- Where MEASP from `s` stands when the loop of phase P has ended (R186). -/
def afterLoop (s : State) : State := (samplesP Config.nSamples ([], (phaseT (measpStart s)).2)).2

/-- The loop of phase P writes STATUS alone among the registers. -/
theorem afterLoop_x_eq (s : State) : ∃ st, (afterLoop s).x = { (phaseT (measpStart s)).2.x with status := st } :=
  ⟨_, by rw [afterLoop, samplesP_eq]⟩

/-- The loop after phase T records `recordedSamples s` (R188, R189). -/
theorem samplesP_phaseT (s : State) :
    samplesP Config.nSamples ([], (phaseT (measpStart s)).2) = (recordedSamples s, afterLoop s) := by
  refine Prod.ext ?_ rfl
  simp only [samplesP_eq, loopSamples_eq_filter_map, drawAt_phaseT, rawSample_eq, recordedSamples, Config.nSamples,
    Nat.add_comm 2, Nat.add_comm 3, List.nil_append]
  rfl

/-- MEASP with a temperature ends in `measpFinish` (R186). -/
theorem exec_measp_of_temperature (hi : s.flag .initd = true) {b5 : Rat} {T : Int} (h : answerT s = some (b5, T)) :
    exec .measp s = .next (measpFinish b5 (recordedSamples s) (afterLoop s)) := by
  simp only [exec, execMeasp, measpRun, hi, if_true, (phaseT_of_temperature (answerT_measpStart.trans h)).1, phaseP, samplesP_phaseT]

theorem State.flag_afterLoop {f : StatusField} (hb : f ≠ .busunav) (hx : f ≠ .xfererr) :
    (afterLoop s).flag f = (phaseT (measpStart s)).2.flag f :=
  State.flag_samplesP hb hx _ _ _

theorem afterLoop_read {r : Reg} (h : r ≠ .status) : (afterLoop s).x.read r = (phaseT (measpStart s)).2.x.read r := by
  obtain ⟨st, hx⟩ := afterLoop_x_eq s
  rw [hx, RegFile.read_status _ _ _ h]

theorem afterLoop_press : (afterLoop s).x.press = s.x.press := by
  obtain ⟨st, hx⟩ := afterLoop_x_eq s
  rw [hx]
  exact phaseT_press (measpStart s)

/-- `CALC_P` gets the coefficients MEASP started with (R186). -/
theorem calcPOf_afterLoop (b5 up : Rat) : calcPOf (afterLoop s).x b5 up =
    calcP b5 up (s.x.read .ac1) (s.x.read .ac2) (s.x.read .ac3) (s.x.read .ac4) (s.x.read .b1) (s.x.read .b2) := by
  obtain ⟨st, hx⟩ := afterLoop_x_eq s
  obtain ⟨st', ut, temp, hT⟩ := phaseT_eq (measpStart s)
  rw [hx, hT]
  rfl

/-- NSAMP can hold the number of samples (R30). -/
theorem recordedSamples_length_lt (s : State) : (recordedSamples s).length < 4 := by
  rw [recordedSamples, List.length_map]
  exact Nat.lt_succ_of_le (List.length_filter_le _ _)

end

/-! ## The end of MEASP -/

section
variable (s : State) {b5 : Rat} {samples : List Nat}

theorem measpFinish_of_no_sample_eq (h : samples.length = 0) :
    measpFinish b5 samples s = respondStatus .measFail ((s.setNsamp samples.length).setFlag .mfail true) := by
  rw [measpFinish, if_pos h]
  rfl

theorem measpFinish_of_fault_eq (h : samples.length ≠ 0) (hP : calcPOf s.x b5 (meanOf samples) = none) :
    measpFinish b5 samples s = respondStatus .arith ((s.setNsamp samples.length).setFlag .arith true) := by
  have hP' : calcPOf (s.setNsamp samples.length).x b5 (meanOf samples) = none := hP
  simp only [measpFinish, if_neg h, hP']
  rfl

theorem measpFinish_of_pressure_eq {P : Int} (h : samples.length ≠ 0) (hP : calcPOf s.x b5 (meanOf samples) = some P) :
    measpFinish b5 samples s =
      respondStatus .ok (((s.setNsamp samples.length).writeReg .press P).setFlag .pvalid true) := by
  have hP' : calcPOf (s.setNsamp samples.length).x b5 (meanOf samples) = some P := hP
  simp only [measpFinish, if_neg h, hP']

theorem State.flag_writeReg {r : Reg} (h : r ≠ .status) (f : StatusField) (v : Int) : (s.writeReg r v).flag f = s.flag f := by
  rw [State.flag, State.writeReg_x, RegFile.status_write r v s.x h, State.flag]

/-- No sample (R192). -/
theorem measpFinish_of_no_sample (h : samples.length = 0) {t : State} (ht : measpFinish b5 samples s = t) :
    t.x.press = s.x.press ∧ t.flag .pvalid = s.flag .pvalid ∧ t.flag .mfail = true ∧ t.flag .arith = s.flag .arith ∧
      t.rsp = some ⟨.measFail, t.x.status.setWidth 32⟩ := by
  rw [measpFinish_of_no_sample_eq s h] at ht
  subst ht
  refine ⟨rfl, ?_, ?_, ?_, rfl⟩ <;> simp [State.flag_setFlag]

/-- An arithmetic fault of phase P (R193). -/
theorem measpFinish_of_fault (h : samples.length ≠ 0) (hP : calcPOf s.x b5 (meanOf samples) = none) {t : State}
    (ht : measpFinish b5 samples s = t) :
    t.flag .mfail = s.flag .mfail ∧ t.x.press = s.x.press ∧ t.flag .pvalid = s.flag .pvalid ∧ t.flag .arith = true ∧
      t.rsp = some ⟨.arith, t.x.status.setWidth 32⟩ := by
  rw [measpFinish_of_fault_eq s h hP] at ht
  subst ht
  refine ⟨?_, rfl, ?_, ?_, rfl⟩ <;> simp [State.flag_setFlag]

/-- A pressure (R191). -/
theorem measpFinish_of_pressure {P : Int} (h : samples.length ≠ 0) (hP : calcPOf s.x b5 (meanOf samples) = some P) {t : State}
    (ht : measpFinish b5 samples s = t) :
    t.flag .mfail = s.flag .mfail ∧ t.x.read .press = P ∧ t.flag .pvalid = true ∧ t.flag .arith = s.flag .arith ∧
      t.rsp = some ⟨.ok, t.x.status.setWidth 32⟩ := by
  have hfits := (fitsS32_iff P).mp (calcP_fits hP)
  rw [measpFinish_of_pressure_eq s h hP] at ht
  subst ht
  refine ⟨?_, toInt_ofInt32_fits (by omega) (by omega), ?_, ?_, rfl⟩ <;> simp [State.flag_setFlag, State.flag_writeReg]

/-- Of the registers the end of MEASP writes STATUS and perhaps PRESS; in STATUS it writes NSAMP and one of MFAIL, ARITH, PVALID. -/
theorem measpFinish_x_eq (b5 : Rat) (samples : List Nat) : ∃ f ∈ [StatusField.mfail, .arith, .pvalid], ∃ press,
    (measpFinish b5 samples s).x =
      { s.x with status := statusSet f true (nsampSet samples.length s.x.status), press := press } := by
  by_cases h : samples.length = 0
  · exact ⟨.mfail, by simp, s.x.press, by rw [measpFinish_of_no_sample_eq s h]; rfl⟩
  · cases hP : calcPOf s.x b5 (meanOf samples) with
    | none => exact ⟨.arith, by simp, s.x.press, by rw [measpFinish_of_fault_eq s h hP]; rfl⟩
    | some P => exact ⟨.pvalid, by simp, BitVec.ofInt 32 P, by rw [measpFinish_of_pressure_eq s h hP]; rfl⟩

theorem measpFinish_read {r : Reg} (hs : r ≠ .status) (hp : r ≠ .press) (b5 : Rat) (samples : List Nat) :
    (measpFinish b5 samples s).x.read r = s.x.read r := by
  obtain ⟨f, -, press, hx⟩ := measpFinish_x_eq s b5 samples
  rw [hx]
  cases r <;> first | rfl | contradiction

theorem State.flag_measpFinish {f : StatusField} (hf : f ∉ [StatusField.mfail, .arith, .pvalid]) (b5 : Rat) (samples : List Nat) :
    (measpFinish b5 samples s).flag f = s.flag f := by
  obtain ⟨g, hg, press, hx⟩ := measpFinish_x_eq s b5 samples
  have hne : f ≠ g := fun h => hf (h ▸ hg)
  rw [State.flag, hx, statusGet_set_ne hne, statusGet_setNsamp, State.flag]

theorem State.nsamp_measpFinish (h : samples.length < 4) : (measpFinish b5 samples s).nsamp = samples.length := by
  obtain ⟨g, -, press, hx⟩ := measpFinish_x_eq s b5 samples
  rw [State.nsamp, hx, nsampGet_set, nsampGet_setNsamp, Nat.mod_eq_of_lt h]

end

/-! ## The obligations -/

/-- Settles O28: both commands are `refuse .notInit`. -/
theorem measurementNeedsInit : Obligations.MeasurementNeedsInit := by
  intro i s hi h
  have hexec : exec i s = .next (refuse .notInit s) := by
    rcases hi with rfl | rfl
    · simp [exec, execMeast, meastRun, h]
    · simp [exec, execMeasp, measpRun, h]
  exact ⟨_, hexec, rfl, rfl, rfl, rfl, rfl, rfl, rfl, rfl⟩

/-- Settles O29: MEAST is phase T from `meastStart s`, whose fields `State.flag_phaseT` gives. -/
theorem meastMeasuresTemperature : Obligations.MeastMeasuresTemperature := by
  intro s hi
  have hstale : (phaseT (meastStart s)).2.flag .utstale = !validT s := by simp [State.flag_phaseT, State.flag_meastStart]
  refine ⟨_, exec_meast hi, phaseT_read_ut (meastStart s), hstale, ?_⟩
  rw [← answerT]
  cases h : answerT s with
  | none => refine ⟨phaseT_temp_of_fault (meastStart s) h, ?_, ?_, rfl⟩ <;> simp [State.flag_phaseT, State.flag_meastStart, h]
  | some r => refine ⟨phaseT_read_temp (meastStart s) h, ?_, ?_, rfl⟩ <;> simp [State.flag_phaseT, State.flag_meastStart, h]

/-- Settles O32: on a fault of phase T MEASP answers at once; otherwise `measpFinish` starts from `afterLoop s`, and the cases are
no sample, a fault of `CALC_P`, and a pressure. -/
theorem measpMeasuresPressure : Obligations.MeaspMeasuresPressure := by
  intro s hi
  rw [← answerT]
  have hstale : (phaseT (measpStart s)).2.flag .utstale = !validT s := by simp [State.flag_phaseT, State.flag_measpStart]
  have hpvalid : (phaseT (measpStart s)).2.flag .pvalid = s.flag .pvalid := by simp [State.flag_phaseT, State.flag_measpStart]
  have hmfail : (phaseT (measpStart s)).2.flag .mfail = false := by simp [State.flag_phaseT, State.flag_measpStart]
  cases h : answerT s with
  | none =>
    have htvalid : (phaseT (measpStart s)).2.flag .tvalid = s.flag .tvalid := by
      simp [State.flag_phaseT, State.flag_measpStart, h]
    have harith : (phaseT (measpStart s)).2.flag .arith = true := by simp [State.flag_phaseT, h]
    have hnsamp : (phaseT (measpStart s)).2.nsamp = 0 := (State.nsamp_phaseT _).trans (State.nsamp_setNsamp _ 0)
    exact ⟨_, exec_measp_of_fault hi h, phaseT_read_ut _, hstale, phaseT_temp_of_fault _ h, phaseT_press _, htvalid, hpvalid,
      harith, hmfail, hnsamp, rfl⟩
  | some r =>
    obtain ⟨b5, T⟩ := r
    have htvalid : (phaseT (measpStart s)).2.flag .tvalid = true := by simp [State.flag_phaseT, h]
    have harith : (phaseT (measpStart s)).2.flag .arith = false := by simp [State.flag_phaseT, State.flag_measpStart, h]
    rw [← State.flag_afterLoop (by decide) (by decide)] at hstale hpvalid hmfail htvalid harith
    refine ⟨_, exec_measp_of_temperature hi h, ?_, ?_, ?_, ?_, State.nsamp_measpFinish _ (recordedSamples_length_lt s), ?_⟩
    · rw [measpFinish_read _ (by decide) (by decide), afterLoop_read (by decide)]
      exact phaseT_read_ut _
    · exact (State.flag_measpFinish _ (by decide) _ _).trans hstale
    · rw [measpFinish_read _ (by decide) (by decide), afterLoop_read (by decide)]
      exact phaseT_read_temp _ h
    · exact (State.flag_measpFinish _ (by decide) _ _).trans htvalid
    split
    case isTrue hn =>
      obtain ⟨hp, hv, hm, ha, hr⟩ := measpFinish_of_no_sample (afterLoop s) (b5 := b5) hn rfl
      exact ⟨hp.trans afterLoop_press, hv.trans hpvalid, hm, ha.trans harith, hr⟩
    case isFalse hn =>
      rw [← calcPOf_afterLoop, ← meanOf]
      cases hP : calcPOf (afterLoop s).x b5 (meanOf (recordedSamples s)) with
      | none =>
        obtain ⟨hm, hp, hv, ha, hr⟩ := measpFinish_of_fault (afterLoop s) hn hP rfl
        exact ⟨hm.trans hmfail, hp.trans afterLoop_press, hv.trans hpvalid, ha, hr⟩
      | some P =>
        obtain ⟨hm, hp, hv, ha, hr⟩ := measpFinish_of_pressure (afterLoop s) hn hP rfl
        exact ⟨hm.trans hmfail, hp, hv, ha.trans harith, hr⟩

/-- Settles O35: the case of `measpMeasuresPressure` without a sample. -/
theorem threeFailuresRaiseMeasurementFailed : Obligations.ThreeFailuresRaiseMeasurementFailed := by
  intro s b5 T hi hT hfail
  obtain ⟨t, ht, -, -, h⟩ := measpMeasuresPressure s hi
  have hnone : recordedSamples s = [] := by
    rw [recordedSamples, List.map_eq_nil_iff, List.filter_eq_nil_iff]
    intro k hk
    rcases hfail k hk with hw | hr
    · simp [hw]
    · simp [hr]
  rw [hT, hnone] at h
  obtain ⟨htemp, -, hnsamp, hpress, hpvalid, hmfail, -, hrsp⟩ := h
  exact ⟨t, ht, hrsp, hmfail, hpress, hpvalid, htemp, hnsamp⟩

/-- Settles O42: `rawSample_eq` on the three data bytes of the read. -/
theorem rawSampleIsNineteenBits : Obligations.RawSampleIsNineteenBits := by
  intro d hfull
  obtain ⟨h0, h1⟩ := Draw.value_range 3 d hfull
  have hvalue : d.value 3 =
      ((d.reply 4).getD 1 0).toNat * 65536 + ((d.reply 4).getD 2 0).toNat * 256 + ((d.reply 4).getD 3 0).toNat := by
    rw [Draw.value, if_pos hfull, Draw.reply_tail_of_full hfull]
    simp [List.range_succ, bigEndian]
    ring
  refine ⟨?_, ?_, hvalue⟩ <;> rw [rawSample_eq] <;> omega

end Sys2Proof.Machine
end

