-- ==== Sys2Proof/Proofs/Compensation.lean ====
section
/-! PROOFS of the family 44_compensation: what `CALC_T` and `CALC_P` answer, and when they answer nothing (`44_compensation.md` R210 to
R226). -/

namespace Sys2Proof.Machine

/-! ## CALC_T -/

/-- R214: the one floor of `CALC_T` rounds to the nearest tenth, ties upward. -/
theorem temperatureOf_eq_iff (b5 : Rat) (T : Int) :
    temperatureOf b5 = T ↔ 16 * (T : Rat) - 8 ≤ b5 ∧ b5 < 16 * (T : Rat) + 8 := by
  rw [temperatureOf, floor_eq, Int.floor_eq_iff]
  constructor <;> rintro ⟨hlo, hhi⟩ <;> constructor <;> linarith

/-- The exact equation of R210 has one solution, the `B5` that `CALC_T` computes. -/
theorem mul_sub_eq_iff_eq_add_div {S : Rat} (hS : S ≠ 0) (X1 N b5 : Rat) : S * (b5 - X1) = N ↔ b5 = X1 + N / S := by
  rw [← sub_eq_iff_eq_add', eq_div_iff hS, mul_comm]

section
variable {UT AC5 AC6 MC MD : Int} {X1 : Rat} (hX1 : X1 = ((UT : Rat) - AC6) * AC5 / 2 ^ 15)
include hX1

/-- R213: `CALC_T` has no answer when its divisor is zero. -/
theorem calcT_of_divisor_zero (hS : X1 + MD = 0) : calcT UT AC5 AC6 MC MD = none := by
  subst hX1
  exact if_pos hS

/-- R210, R213: with a divisor that is not zero, `CALC_T` answers its exact `B5` and the one floor of it, if that fits. -/
theorem calcT_of_divisor_ne_zero (hS : X1 + MD ≠ 0) {b5 : Rat} (hb : b5 = X1 + (MC : Rat) * 2 ^ 11 / (X1 + MD)) :
    calcT UT AC5 AC6 MC MD = if fitsS32 (temperatureOf b5) then some (b5, temperatureOf b5) else none := by
  subst hb hX1
  exact if_neg hS

end

/-- Settles O38: with a divisor that is not zero, `B5` is the one solution of the exact equation and `T` its one nearest tenth. -/
theorem temperatureIsRoundedOnce : Obligations.TemperatureIsRoundedOnce := by
  intro UT AC5 AC6 MC MD X1 solves
  by_cases hS : X1 + MD = 0
  · simp [calcT_of_divisor_zero rfl hS, solves, hS]
  · obtain ⟨B5, hB5⟩ : ∃ B5, B5 = X1 + (MC : Rat) * 2 ^ 11 / (X1 + MD) := ⟨_, rfl⟩
    have hsolves (b5 : Rat) (T : Int) : solves b5 T ↔ b5 = B5 ∧ T = temperatureOf B5 := by
      simp only [solves, ne_eq, hS, not_false_eq_true, true_and, mul_sub_eq_iff_eq_add_div hS, ← temperatureOf_eq_iff, ← hB5]
      exact and_congr_right fun hb => by rw [hb, eq_comm]
    rw [calcT_of_divisor_ne_zero rfl hS hB5]
    simp only [fitsS32_iff, ite_not, hsolves]
    constructor
    · intro b5 T
      rw [Option.ite_none_left_eq_some, Option.some.injEq, Prod.mk.injEq]
      constructor
      · rintro ⟨hrange, rfl, rfl⟩
        exact ⟨⟨rfl, rfl⟩, by omega⟩
      · rintro ⟨⟨rfl, rfl⟩, hrange⟩
        exact ⟨by omega, rfl, rfl⟩
    · simp [hS, or_iff_not_imp_left]

/-! ## CALC_P -/

section
variable {B5 B6 X3b : Rat} {AC3 B1 : Int} (AC4 : Int) (hB6 : B6 = B5 - 4000)
  (hX3b : X3b = ((AC3 : Rat) * B6 / 2 ^ 13 + (B1 : Rat) * B6 ^ 2 / 2 ^ 28 + 2) / 4)
include hB6 hX3b

/-- R220: `B4` with its power-of-two divisions regrouped. -/
theorem calcB4_eq : calcB4 B5 AC3 AC4 B1 = (AC4 : Rat) * (X3b + 32768) / 2 ^ 15 := by
  subst hX3b hB6
  simp only [calcB4]
  ring

/-- R226: the divisor of `CALC_P` is zero exactly when one of its two factors is. -/
theorem calcB4_eq_zero_iff : calcB4 B5 AC3 AC4 B1 = 0 ↔ AC4 = 0 ∨ X3b = -32768 := by
  rw [calcB4_eq AC4 hB6 hX3b]
  simp [add_eq_zero_iff_eq_neg]

end

/-- R220: `B3` in mode 3, the only mode the block runs (R201). -/
theorem calcB3_mode {B5 B6 : Rat} (AC1 AC2 B2 : Int) (hB6 : B6 = B5 - 4000) :
    calcB3 Config.mode B5 AC1 AC2 B2 =
      2 * (4 * (AC1 : Rat) + ((B2 : Rat) * B6 ^ 2 / 2 ^ 23 + (AC2 : Rat) * B6 / 2 ^ 11)) + 1 / 2 := by
  subst hB6
  simp only [calcB3, Config.mode]
  ring

/-- R220: the last lines of `CALC_P` in mode 3, over a `B4` whose `2^15` is moved to the numerator. -/
theorem pressureOf_mode {UP B3 D p : Rat} (hp : p = 12500 * (UP - B3) * 2 ^ 15 / D) :
    pressureOf Config.mode UP B3 (D / 2 ^ 15) = p + (3038 * p ^ 2 / 2 ^ 32 - 7357 * p / 2 ^ 16 + 3791) / 16 := by
  have hquot : (UP - B3) * ((50000 >>> Config.mode : Nat) : Rat) * 2 / (D / 2 ^ 15) = p := by
    rw [hp, div_div_eq_mul_div, show 50000 >>> Config.mode = 6250 from rfl]
    push_cast
    ring
  simp only [pressureOf, hquot]
  ring

/-- Settles O40: each line of `CALC_P` regrouped (`calcB4_eq`, `calcB3_mode`, `pressureOf_mode`), then its two tests. -/
theorem calcPOfTheFormulas : Obligations.CalcPOfTheFormulas := by
  intro B5 UP AC1 AC2 AC3 AC4 B1 B2 B6 X3a B3 X3b p pressure
  have hzero : calcB4 B5 AC3 AC4 B1 = 0 ↔ AC4 = 0 ∨ X3b = -32768 := calcB4_eq_zero_iff AC4 rfl rfl
  have hpressure : pressureOf Config.mode UP (calcB3 Config.mode B5 AC1 AC2 B2) (calcB4 B5 AC3 AC4 B1) = pressure := by
    rw [calcB4_eq (X3b := X3b) AC4 rfl rfl, calcB3_mode AC1 AC2 B2 rfl]
    exact pressureOf_mode rfl
  simp only [calcP, calcPAt, hzero, hpressure, floor_eq, fitsS32_iff, ite_not]
  rw [ite_or (AC4 = 0 ∨ X3b = -32768)]

end Sys2Proof.Machine
end

section
/-! PROOFS of the family 45_accessors: GET (`45_accessors.md` R240), which registers have a value (R241) and what the 32-bit view
says (R242). GET is one response from the state it finds; `getAnswer` is what it responds, read for a reserved number and for the
number of a register. -/

namespace Sys2Proof.Machine

/-! ## GET -/

/-- The code and the data word GET `r` answers with in state `s` (R240). -/
def getAnswer (r : Byte) (s : State) : Code × Word :=
  match Reg.ofNum r with
  | none => (.badReg, 0)
  | some g => if s.hasValue g then (.ok, s.x.view32 g) else (.noValue, 0)

section
variable (s : State)

/-- GET does nothing but respond. -/
theorem getRun_eq_respond (r : Byte) : getRun r s = respond (getAnswer r s).1 (getAnswer r s).2 s := by
  unfold getRun getAnswer
  cases Reg.ofNum r with
  | none => rfl
  | some g =>
    dsimp only
    cases s.hasValue g <;> rfl

theorem getAnswer_of_reserved {r : Byte} (h : assignedNumber r = false) : getAnswer r s = (.badReg, 0) := by
  have hnone : Reg.ofNum r = none := Option.not_isSome_iff_eq_none.mp (by simp [Reg.ofNum_isSome, h])
  rw [getAnswer, hnone]

theorem getAnswer_num (g : Reg) :
    getAnswer g.num s = if s.hasValue g then (.ok, s.x.view32 g) else (.noValue, 0) := by
  rw [getAnswer, Reg.ofNum_num]

end

/-- Settles O20: all but the answer is the frame of `respond`; the answer is read off `getAnswer`. -/
theorem getAnswersAndChangesNothing : Obligations.GetAnswersAndChangesNothing := by
  intro r s
  refine ⟨_, (getAnswer r s).1, (getAnswer r s).2, congrArg Host.Outcome.next (getRun_eq_respond s r), rfl, rfl, rfl, rfl, rfl, rfl,
    rfl, rfl, fun hr => ?_, fun g hg => ?_⟩
  · rw [getAnswer_of_reserved s hr]
    exact ⟨rfl, rfl⟩
  · subst hg
    rw [getAnswer_num]
    cases s.hasValue g <;> exact ⟨rfl, rfl⟩

/-! ## Which registers have a value, and their views -/

/-- Settles O21: the first four clauses are rows of `HasValue`; the identity bytes and the coefficients share theirs. -/
theorem valueGuards : Obligations.ValueGuards := fun s =>
  ⟨rfl, rfl, rfl, rfl, fun _ hr => State.hasValue_of_calibration s hr⟩

/-- A zero-extension to a greater width is never negative: it keeps the unsigned value. -/
theorem toInt_setWidth_of_lt {n m : Nat} (h : n < m) (x : BitVec n) : (x.setWidth m).toInt = x.toNat := by
  rw [← BitVec.setWidth'_eq h.le, BitVec.toInt_setWidth'_of_lt h]

/-- Settles O22: an unsigned register is zero-extended, a signed coefficient sign-extended, a reading is 32 bits already. -/
theorem viewIsTheIntegerHeld : Obligations.ViewIsTheIntegerHeld := by
  intro x r
  cases r
  case status | chipid | chipver | ut | ac4 | ac5 | ac6 => exact toInt_setWidth_of_lt (by decide) _
  case temp | press => rfl
  case ac1 | ac2 | ac3 | b1 | b2 | mb | mc | md => exact BitVec.toInt_signExtend_of_le (by decide)

end Sys2Proof.Machine
end

section
/-! PROOFS of the family 70_reset_and_hazards: a cycle with `rst` (`70_reset_and_hazards.md` R280, R281). An event and a step with
`rst` are both `applyReset`, whatever the block was doing; the laws of `applyReset` say the rest. -/

namespace Sys2Proof.Machine

/-- Reset comes before the step in progress and before the command port (R280). -/
theorem tick_of_rst (c : Option Word) (s : State) : tick ⟨true, c⟩ s = applyReset s := if_pos rfl

/-- A step with `rst` takes its inputs off the list and resets the block. -/
theorem step_of_rst {s : State} {c : Option Word} {rest : List PortIn} (hh : s.host = ⟨true, c⟩ :: rest) :
    step s = .next { applyReset s with host := rest } := by
  simp [step, takePort, hh, applyReset]

/-- After reset no register but STATUS and UT has a value: STATUS is 0. -/
theorem State.hasValue_applyReset (s : State) (r : Reg) : (applyReset s).hasValue r = (r == .status || r == .ut) :=
  State.hasValue_of_status_zero rfl r

/-- Settles O13: the event and the step are `applyReset`, which keeps the trace and sets every other field named. -/
theorem resetAbandonsCommand : Obligations.ResetAbandonsCommand := by
  intro s c
  refine ⟨applyReset s, (tick_of_rst c s).symm, fun _ hh => step_of_rst hh, ?_⟩
  have htrace : rspCount (applyReset s).trace = rspCount s.trace := congrArg rspCount (applyReset_trace s)
  have hpins : (applyReset s).spi.csN = true ∧ (applyReset s).spi.sclk = true := ⟨rfl, rfl⟩
  have htimer : (applyReset s).work.timer = none := rfl
  exact ⟨rfl, rfl, s.hasValue_applyReset, applyReset_seq s, applyReset_rsp s, htrace, hpins.1, hpins.2, htimer⟩

end Sys2Proof.Machine
end

section
/-! PROOFS of the family other, the command port (`30_encoding.md` R100 to R105): decoding and encoding are inverse to each other, and
what an event and a step do in each of the states of `cmd_ready`. -/

namespace Sys2Proof

/-- Settles O1: the decoder on the eight words. -/
theorem specWordsDecode : Obligations.SpecWordsDecode := ⟨rfl, rfl, rfl, rfl, rfl, rfl, rfl, rfl⟩

/-- Settles O2: the fields of a laid-out word are what it was laid out from. -/
theorem decodeAfterEncodeIsIdentity : Obligations.DecodeAfterEncodeIsIdentity := decode_encode

/-- Settles O3: a word that decodes is laid out from its fields (`decode_eq_ok_iff`). -/
theorem encodeAfterDecodeIsIdentity : Obligations.EncodeAfterDecodeIsIdentity := fun _ _ => decode_eq_ok_iff.mp

end Sys2Proof

namespace Sys2Proof.Machine

/-- A step is the event of the inputs at the head of the list, on the state with the later inputs left, while the block is busy. -/
theorem step_busy {s : State} (hs : s.cmdReady = false) {p : PortIn} {rest : List PortIn} (hp : p.rst = false)
    (hh : s.host = p :: rest) : step s = .next (seqTick { s with host := rest }) := by
  have hq : s.seq ≠ .idle := by simpa [State.cmdReady] using hs
  simp [step, takePort, hh, hp, hq]

/-- Settles O7: the two ways of offering nothing, an input that offers nothing and the end of the list, are the same to `step`. -/
theorem idleWithoutCommandKeepsState : Obligations.IdleWithoutCommandKeepsState := by
  intro s hs hh
  rcases hh with hh | ⟨rest, hh⟩ <;> simp [step, takePort, hh, hs, lowerRsp]

/-- Settles O8: a busy block does the event of its step, whatever is offered (`tick_busy`, `step_busy`). -/
theorem busyIgnoresOfferedWord : Obligations.BusyIgnoresOfferedWord := by
  intro s w hs
  refine ⟨by rw [tick_busy hs, tick_busy hs], fun rest hh => ?_⟩
  exact (step_busy hs rfl hh).trans (step_busy (s := { s with host := ⟨false, none⟩ :: rest }) hs rfl rfl).symm

/-- The cycle of a response ends with its event (R103, R104). -/
theorem seqTick_respond {s : State} (hq : s.seq = .respond) : seqTick s = endResponse s := by rw [seqTick, hq]

/-- Settles O10: in the cycle of a response the block is busy, and the event is `endResponse`. -/
theorem responseLastsOneCycle : Obligations.ResponseLastsOneCycle := by
  rintro ⟨rst, cmd⟩ s rfl hq
  have hs : s.cmdReady = false := by simp [State.cmdReady, hq]
  refine ⟨(tick_busy hs cmd).trans (seqTick_respond hq), fun rest hh => ?_⟩
  exact (step_busy hs rfl hh).trans (congrArg Host.Outcome.next (seqTick_respond (s := { s with host := rest }) hq))

/-- Settles O14: the event and the step with `rst` are `applyReset` (`tick_of_rst`, `step_of_rst`), which is this equation. -/
theorem resetFromEveryState : Obligations.ResetFromEveryState := ⟨fun s c => tick_of_rst c s, fun _ _ _ hh => step_of_rst hh⟩

end Sys2Proof.Machine
end

section
/-! PROOFS of the family other, the invariant (`10_state.md` R30 to R46, `40_bus_transport.md` R125 to R128): it holds at reset and
every event keeps it. Its clauses come in three groups, proved apart: on STATUS alone (`StatusOk`), on the step in progress (`StepOk`),
on an open session (`SessionOk`). An event either stays in its step and touches the transport (`Carries`), or enters the step that
follows with the bus released (`inv_of_step`), or responds (`inv_respond`). -/

namespace Sys2Proof.Machine

/-! ## STATUS -/

/-- The clauses of the invariant on STATUS alone (R30, R186, R192, R241). -/
structure StatusOk (st : Half) : Prop where
  reserved : statusReserved st = 0
  tvalid : statusGet .tvalid st = true → statusGet .initd st = true
  pvalid : statusGet .pvalid st = true → statusGet .tvalid st = true
  mfail : statusGet .mfail st = true → nsampGet st = 0

/-- `st'` differs from `st` in the two transport flags at most (R131). -/
structure SameButTransport (st st' : Half) : Prop where
  reserved : statusReserved st' = statusReserved st
  nsamp : nsampGet st' = nsampGet st
  field : ∀ f, f ≠ .busunav → f ≠ .xfererr → statusGet f st' = statusGet f st

section
variable {st st' : Half}

theorem Inv.statusOk {s : State} (h : Inv s) : StatusOk s.x.status := ⟨h.reservedZero, h.tvalidInitd, h.pvalidTvalid, h.mfailNone⟩

theorem SameButTransport.refl (st : Half) : SameButTransport st st := ⟨rfl, rfl, fun _ _ _ => rfl⟩

theorem sameButTransport_busunav (st : Half) : SameButTransport st (statusSet .busunav true st) :=
  ⟨statusReserved_set .., nsampGet_set .., fun _ hb _ => statusGet_set_ne hb ..⟩

theorem sameButTransport_xfererr (st : Half) : SameButTransport st (statusSet .xfererr true st) :=
  ⟨statusReserved_set .., nsampGet_set .., fun _ _ hx => statusGet_set_ne hx ..⟩

theorem StatusOk.congr (h : StatusOk st) (hs : SameButTransport st st') : StatusOk st' where
  reserved := hs.reserved.trans h.reserved
  tvalid := by simpa [hs.field] using h.tvalid
  pvalid := by simpa [hs.field] using h.pvalid
  mfail := by simpa [hs.field, hs.nsamp] using h.mfail

/-- A field that no clause names may be written freely. -/
theorem StatusOk.set_other (h : StatusOk st) {f : StatusField} (hf : f ∉ [StatusField.initd, .tvalid, .pvalid, .mfail]) (b : Bool) :
    StatusOk (statusSet f b st) := by
  have hne : ∀ g ∈ [StatusField.initd, .tvalid, .pvalid, .mfail], statusGet g (statusSet f b st) = statusGet g st :=
    fun g hg => statusGet_set_ne (by rintro rfl; exact hf hg) b st
  constructor
  · simpa using h.reserved
  · simpa [hne] using h.tvalid
  · simpa [hne] using h.pvalid
  · simpa [hne] using h.mfail

theorem StatusOk.set_initd (h : StatusOk st) : StatusOk (statusSet .initd true st) := by
  constructor <;> simp [statusGet_set, h.reserved]
  exacts [h.pvalid, h.mfail]

theorem StatusOk.set_tvalid (h : StatusOk st) (hi : statusGet .initd st = true) : StatusOk (statusSet .tvalid true st) := by
  constructor <;> simp [statusGet_set, h.reserved, hi]
  exact h.mfail

theorem StatusOk.set_pvalid (h : StatusOk st) (ht : statusGet .tvalid st = true) : StatusOk (statusSet .pvalid true st) := by
  constructor <;> simp [statusGet_set, h.reserved, ht, h.tvalid]
  exact h.mfail

theorem StatusOk.set_mfail (h : StatusOk st) {b : Bool} (hb : b = true → nsampGet st = 0) : StatusOk (statusSet .mfail b st) := by
  constructor <;> simp [statusGet_set, h.reserved]
  exacts [h.tvalid, h.pvalid, hb]

theorem StatusOk.setNsamp (h : StatusOk st) (hm : statusGet .mfail st = false) (n : Nat) : StatusOk (nsampSet n st) := by
  constructor <;> simp [h.reserved, hm]
  exacts [h.tvalid, h.pvalid]

end

/-! ## The step in progress -/

/-- The clauses of the invariant on the step in progress: its command, the samples, what has run before it (R40, R180, R186, R187). -/
structure StepOk (s : State) : Prop where
  fits : cmdFits s.seq s.work.cmd = true
  samples : s.seq.pressing = true → s.work.samples.length ≤ s.seq.samplesBound ∧ ∀ v ∈ s.work.samples, v < 2 ^ 19
  initd : s.seq.measuring = true → s.flag .initd = true
  tvalid : s.seq.pressing = true → s.flag .tvalid = true
  cleared : s.seq.measuring = true → s.work.cmd = some .measp → s.flag .mfail = false ∧ s.nsamp = 0

/-- The clauses of the invariant on an open session with the frame `out` (R121, R123, R126). -/
structure SessionOk (out : List Byte) (s : State) : Prop where
  isOpen : s.work.phase ≠ .closed
  selected : s.spi.csN = false
  bits : (s.work.phase = .fall ∨ s.work.phase = .rise → s.spi.bitCnt < 8) ∧ (s.work.phase = .gap → s.spi.bitCnt = 0)
  rx : s.spi.rxBuf.length = s.spi.byteCnt
  bytes : s.spi.byteCnt ≤ out.length
  more : s.work.phase = .fall ∨ s.work.phase = .rise → s.env.miso ≠ [] ∧ s.spi.byteCnt < out.length

/-- The bus is released and no session is open (R126). -/
structure Released (s : State) : Prop where
  phase : s.work.phase = .closed
  spi : s.spi = Spi.idle
  miso : s.env.miso = []

/-- From `s` to `t` only the transport has moved: the step, its command and what it works on are the same. -/
structure Carries (s t : State) : Prop where
  seq : t.seq = s.seq
  cmd : t.work.cmd = s.work.cmd
  samples : t.work.samples = s.work.samples
  timer : t.work.timer = s.work.timer
  params : t.params = s.params
  rsp : t.rsp = s.rsp
  status : SameButTransport s.x.status t.x.status

section
variable {s t : State} {out : List Byte}

theorem Inv.stepOk (h : Inv s) : StepOk s := ⟨h.cmdOfSeq, h.samplesBound, h.measuringInitd, h.pressingTvalid, h.measpCleared⟩

theorem Inv.sessionOk (h : Inv s) (ho : s.work.phase ≠ .closed) (hf : frameOf s = some out) : SessionOk out s :=
  ⟨ho, h.openSelected ho, h.bitBound, h.rxBound.1, h.rxBound.2 out ho hf,
    fun hp => ⟨(h.byteInFrame hp).1, (h.byteInFrame hp).2 out hf⟩⟩

/-- No session is open in a step without a frame (R125, R128). -/
theorem Inv.released (h : Inv s) (hf : frameOf s = none) : Released s := by
  have hp : s.work.phase = .closed := by_contra fun ho => h.openInTxn ho hf
  obtain ⟨hspi, hmiso⟩ := h.closedQuiet hp
  exact ⟨hp, hspi, hmiso⟩

/-- A step with a frame is a step of a step list and no wait step (R128). -/
theorem running_of_frameOf (hf : frameOf s = some out) : s.seq.running := by
  constructor <;> intro hq <;> simp [frameOf, hq] at hf

theorem Inv.timer_eq_none (h : Inv s) (hf : frameOf s = some out) : s.work.timer = none := by
  by_contra ht
  rw [frameOf_waiting (h.timerInWait ht)] at hf
  cases hf

theorem Carries.frameOf_eq (c : Carries s t) : frameOf t = frameOf s := frameOf_congr c.seq c.cmd c.params

theorem Carries.stepOk (c : Carries s t) (h : StepOk s) : StepOk t := by
  have hflag : ∀ f, f ≠ .busunav → f ≠ .xfererr → t.flag f = s.flag f := c.status.field
  have hnsamp : t.nsamp = s.nsamp := c.status.nsamp
  constructor
  · rw [c.seq, c.cmd]; exact h.fits
  · rw [c.seq, c.samples]; exact h.samples
  · rw [c.seq, hflag _ (by decide) (by decide)]; exact h.initd
  · rw [c.seq, hflag _ (by decide) (by decide)]; exact h.tvalid
  · rw [c.seq, c.cmd, hflag _ (by decide) (by decide), hnsamp]; exact h.cleared

/-! ## The three ways to meet the invariant -/

/-- A step of a step list with the bus released. -/
theorem inv_of_step (hq : s.seq.running) (hb : Released s) (ht : s.work.timer ≠ none → s.seq.waiting = true) (hr : s.rsp = none)
    (hst : StatusOk s.x.status) (h : StepOk s) : Inv s := by
  obtain ⟨hidle, hrespond⟩ := hq
  obtain ⟨hp, hspi, hmiso⟩ := hb
  constructor
  case reservedZero => exact hst.reserved
  case idleWork => simp [hidle, hrespond]
  case rspCycle => simp [hr, hrespond]
  case cmdOfSeq => exact h.fits
  case closedQuiet => exact fun _ => ⟨hspi, hmiso⟩
  case timerInWait => exact ht
  case samplesBound => exact h.samples
  case measuringInitd => exact h.initd
  case pressingTvalid => exact h.tvalid
  case measpCleared => exact h.cleared
  case tvalidInitd => exact hst.tvalid
  case pvalidTvalid => exact hst.pvalid
  case mfailNone => exact hst.mfail
  all_goals simp [hp, hspi, Spi.idle]

/-- An event that leaves a session open. -/
theorem Inv.of_session (h : Inv s) (hf : frameOf s = some out) (c : Carries s t) (hs : SessionOk out t) : Inv t := by
  obtain ⟨hidle, hrespond⟩ := running_of_frameOf hf
  have hst := h.statusOk.congr c.status
  have hstep := c.stepOk h.stepOk
  have hft : frameOf t = some out := c.frameOf_eq.trans hf
  have hout : ∀ o, frameOf t = some o → o = out := fun o ho => Option.some.inj (ho.symm.trans hft)
  constructor
  case reservedZero => exact hst.reserved
  case idleWork => simp [c.seq, hidle, hrespond]
  case rspCycle => rw [c.rsp, c.seq]; exact h.rspCycle
  case cmdOfSeq => exact hstep.fits
  case closedQuiet => exact fun hp => absurd hp hs.isOpen
  case openSelected => exact fun _ => hs.selected
  case openInTxn => simp [hft]
  case timerInWait => rw [c.timer, c.seq]; exact h.timerInWait
  case bitBound => exact hs.bits
  case rxBound => exact ⟨hs.rx, fun o _ ho => hout o ho ▸ hs.bytes⟩
  case byteInFrame => exact fun hp => ⟨(hs.more hp).1, fun o ho => hout o ho ▸ (hs.more hp).2⟩
  case samplesBound => exact hstep.samples
  case measuringInitd => exact hstep.initd
  case pressingTvalid => exact hstep.tvalid
  case measpCleared => exact hstep.cleared
  case tvalidInitd => exact hst.tvalid
  case pvalidTvalid => exact hst.pvalid
  case mfailNone => exact hst.mfail

/-- A response with the bus released. -/
theorem inv_respond (hspi : s.spi = Spi.idle) (hmiso : s.env.miso = []) (hst : StatusOk s.x.status) (c : Code) (v : Word) :
    Inv (respond c v s) :=
  inv_of_rest _ (.inr rfl) rfl rfl hspi hmiso hst.reserved hst.tvalid hst.pvalid hst.mfail

theorem Inv.respond (h : Inv s) (hf : frameOf s = none) (c : Code) (v : Word) : Inv (Machine.respond c v s) :=
  inv_respond (h.released hf).spi (h.released hf).miso h.statusOk c v

end
/-! ## Transaction steps -/

/-- What `afterTxn` leaves alone. -/
theorem afterTxn_frame (r : Nat × List Byte) (s : State) :
    (afterTxn r s).work.phase = s.work.phase ∧ (afterTxn r s).work.timer = s.work.timer ∧ (afterTxn r s).spi = s.spi ∧
      (afterTxn r s).env = s.env ∧ (afterTxn r s).x.status = s.x.status := by
  unfold afterTxn
  split
  case h_1 => split <;> exact ⟨rfl, rfl, rfl, rfl, rfl⟩
  case h_2 =>
    split
    next e he =>
      exact ⟨rfl, rfl, rfl, rfl, RegFile.status_write _ _ _ (loadOrder_reg_ne_status _ e (List.mem_of_getElem? he))⟩
    next => exact ⟨rfl, rfl, rfl, rfl, rfl⟩
  case h_3 | h_4 => split <;> exact ⟨rfl, rfl, rfl, rfl, rfl⟩
  case h_5 => exact ⟨rfl, rfl, rfl, rfl, rfl⟩

/-- The step after a transaction belongs to the same phase of a measurement (R40). -/
theorem afterTxn_phases (r : Nat × List Byte) (s : State) :
    (afterTxn r s).seq.measuring = s.seq.measuring ∧ (afterTxn r s).seq.pressing = s.seq.pressing := by
  unfold afterTxn
  cases hq : s.seq with
  | x0 => simp only; split <;> simp [hq, Seq.measuring, Seq.pressing]
  | i n =>
    simp only [nextI]
    split
    · simp only; split <;> exact ⟨rfl, rfl⟩
    · simp [hq, Seq.measuring, Seq.pressing]
  | t n => simp only; split <;> simp [hq, Seq.measuring, Seq.pressing]
  | p n j =>
    simp only [nextP]
    split
    · exact ⟨rfl, rfl⟩
    · simp only; split <;> exact ⟨rfl, rfl⟩
    · simp [hq, Seq.measuring, Seq.pressing]
  | _ => simp [hq]

/-- A sample joins the others, or none does (R188, R189). -/
theorem recordSample_bound {r : Nat × List Byte} (hr : r.2.length = r.1) (w : Bool) {samples : List Nat} {n : Nat}
    (hl : samples.length ≤ n) (hv : ∀ v ∈ samples, v < 2 ^ 19) :
    (recordSample w (readValue 3 r) samples).length ≤ n + 1 ∧ ∀ v ∈ recordSample w (readValue 3 r) samples, v < 2 ^ 19 := by
  unfold recordSample
  split
  · refine ⟨by simpa using hl, fun v hm => ?_⟩
    rcases List.mem_append.mp hm with h | h
    · exact hv v h
    · rw [List.mem_singleton.mp h]
      exact rawSample_readValue_lt r hr
  · exact ⟨by omega, hv⟩

/-- The samples recorded up to the step after a transaction (R188). -/
theorem afterTxn_samples {s : State} (h : StepOk s) {r : Nat × List Byte} (hr : r.2.length = r.1)
    (hs : s.seq.pressing = true) :
    (afterTxn r s).work.samples.length ≤ (afterTxn r s).seq.samplesBound ∧ ∀ v ∈ (afterTxn r s).work.samples, v < 2 ^ 19 := by
  have hsamples := h.samples hs
  unfold afterTxn
  cases hq : s.seq with
  | p n j =>
    rw [hq] at hsamples
    simp only
    split
    · exact hsamples
    · have hrec := recordSample_bound hr s.work.wok hsamples.1 hsamples.2
      fin_cases n <;> exact hrec
    · rw [hq]; exact hsamples
  | p9 => simpa [hq] using hsamples
  | _ => simp [hq, Seq.pressing] at hs

/-- The result of a transaction is handed over with the bus released (R40, R41). -/
theorem Inv.afterTxn {s : State} {out : List Byte} (h : Inv s) (hf : frameOf s = some out) (hp : s.work.phase = .closed)
    {r : Nat × List Byte} (hr : r.2.length = r.1) : Inv (Machine.afterTxn r s) := by
  have hrun := running_of_frameOf hf
  obtain ⟨hspi, hmiso⟩ := h.closedQuiet hp
  obtain ⟨fphase, ftimer, fspi, fenv, fstatus⟩ := afterTxn_frame r s
  obtain ⟨hmeas, hpress⟩ := afterTxn_phases r s
  obtain ⟨⟨hrsp, -⟩, hcmd, hseq, hfits, -⟩ := advances_afterTxn hf h.cmdOfSeq r
  have hflag : ∀ f, (Machine.afterTxn r s).flag f = s.flag f := fun f => by rw [State.flag, fstatus, State.flag]
  refine inv_of_step hseq ⟨fphase.trans hp, fspi.trans hspi, by rw [fenv, hmiso]⟩ (by simp [ftimer, h.timer_eq_none hf])
    (hrsp.trans (h.rsp_eq_none hrun.2)) (fstatus ▸ h.statusOk) ?_
  constructor
  case fits => rw [hcmd]; exact hfits
  case samples => exact fun hp' => afterTxn_samples h.stepOk hr (hpress ▸ hp')
  case initd => rw [hmeas, hflag]; exact h.measuringInitd
  case tvalid => rw [hpress, hflag]; exact h.pressingTvalid
  case cleared => rw [hmeas, hcmd, hflag, State.nsamp, fstatus]; exact h.measpCleared

/-- The end of XFER raises XFERERR or nothing (R123). -/
theorem sameButTransport_endXfer (out : List Byte) (s : State) : SameButTransport s.x.status (endXfer out s).x.status := by
  unfold endXfer
  simp only
  split
  · exact sameButTransport_xfererr _
  · exact .refl _

/-- An event of a transaction (R120 to R124, R127, R130). -/
theorem Inv.txnTick {s : State} {out : List Byte} (h : Inv s) (hf : frameOf s = some out) : Inv (Machine.txnTick out s) := by
  have hrun := running_of_frameOf hf
  unfold Machine.txnTick
  cases hp : s.work.phase with
  | closed =>
    obtain ⟨hspi, hmiso⟩ := h.closedQuiet hp
    simp only [takeDraw_eq]
    split
    · refine h.of_session hf ⟨rfl, rfl, rfl, rfl, rfl, rfl, .refl _⟩ ?_
      constructor <;> simp [Spi.begin]
    · have c : Carries s (openFailed { s with env := envAfter 1 s.env }) :=
        ⟨rfl, rfl, rfl, rfl, rfl, rfl, sameButTransport_busunav _⟩
      refine Inv.afterTxn (out := out) ?_ (c.frameOf_eq.trans hf) hp rfl
      exact inv_of_step hrun ⟨hp, hspi, hmiso⟩ h.timerInWait (h.rsp_eq_none hrun.2) (h.statusOk.congr c.status) (c.stepOk h.stepOk)
  | gap =>
    obtain ⟨-, hsel, ⟨-, hbits⟩, hrx, hbytes, -⟩ := h.sessionOk (by simp [hp]) hf
    simp only
    split
    next ho hm =>
      have hk := (List.getElem?_eq_some_iff.mp ho).1
      refine h.of_session hf ⟨rfl, rfl, rfl, rfl, rfl, rfl, .refl _⟩ ?_
      constructor <;> simp [Spi.load, hsel, hrx, hbytes, hk, hm]
    next =>
      have hst := sameButTransport_endXfer out s
      obtain ⟨x, hx⟩ := endXfer_eq out s
      rw [hx] at hst ⊢
      refine h.of_session hf ⟨rfl, rfl, rfl, rfl, rfl, rfl, hst⟩ ?_
      constructor <;> simp [hsel, hrx, hbytes]
  | fall =>
    obtain ⟨-, hsel, ⟨hbits, -⟩, hrx, hbytes, hmore⟩ := h.sessionOk (by simp [hp]) hf
    obtain ⟨hmiso, hk⟩ := hmore (.inl hp)
    refine h.of_session hf ⟨rfl, rfl, rfl, rfl, rfl, rfl, .refl _⟩ ?_
    constructor <;> simp [Spi.fall, hsel, hbits (.inl hp), hrx, hbytes, hmiso, hk]
  | rise =>
    obtain ⟨-, hsel, -, hrx, hbytes, hmore⟩ := h.sessionOk (by simp [hp]) hf
    obtain ⟨hmiso, hk⟩ := hmore (.inr hp)
    simp only
    split
    next hb =>
      refine h.of_session hf ⟨rfl, rfl, rfl, rfl, rfl, rfl, .refl _⟩ ?_
      constructor <;> simp [Spi.rise, hsel, hrx, hbytes, hmiso, hk]
      exact hb
    next =>
      refine h.of_session hf ⟨rfl, rfl, rfl, rfl, rfl, rfl, .refl _⟩ ?_
      constructor <;> simp [Spi.rise, Spi.endByte, hsel, hrx]
      exact hk
  | closing =>
    have c : Carries s (closeSession { s with env := { s.env with miso := [] }, work := { s.work with phase := .closed } }) :=
      ⟨rfl, rfl, rfl, rfl, rfl, rfl, .refl _⟩
    refine Inv.afterTxn (out := out) ?_ (c.frameOf_eq.trans hf) rfl h.rxBound.1
    exact inv_of_step hrun ⟨rfl, rfl, rfl⟩ h.timerInWait (h.rsp_eq_none hrun.2) h.statusOk (c.stepOk h.stepOk)

/-! ## Wait steps -/

/-- An event of a wait step (R262); the step that follows has the same command and has recorded no fewer samples. -/
theorem Inv.waitTick {s : State} (h : Inv s) (hw : s.seq.waiting = true) (us : Nat) {q : Seq} (hq : q.running)
    (hstep : StepOk { s with work := { s.work with timer := none }, seq := q }) : Inv (Machine.waitTick us q s) := by
  have hs : s.seq.running := by constructor <;> intro e <;> simp [e, Seq.waiting] at hw
  obtain ⟨hp, hspi, hmiso⟩ := h.released (frameOf_waiting hw)
  have hr := h.rsp_eq_none hs.2
  have hst := h.statusOk
  obtain ⟨hfits, hsamples, hinitd, htvalid, hcleared⟩ := h.stepOk
  unfold Machine.waitTick
  split
  · exact inv_of_step hs ⟨hp, hspi, hmiso⟩ (fun _ => hw) hr hst ⟨hfits, hsamples, hinitd, htvalid, hcleared⟩
  · exact inv_of_step hs ⟨hp, hspi, hmiso⟩ (fun _ => hw) hr hst ⟨hfits, hsamples, hinitd, htvalid, hcleared⟩
  · exact inv_of_step hq ⟨hp, hspi, hmiso⟩ (fun ht => absurd rfl ht) hr hst hstep

/-! ## The ends of the step lists -/

section
variable {s : State} (h : Inv s) (hf : frameOf s = none)
include h hf

theorem Inv.respondRead (v : Int) : Inv (Machine.respondRead v s) := by
  unfold Machine.respondRead
  split <;> exact h.respond hf _ _

theorem Inv.respondWrite (ok : Bool) : Inv (Machine.respondWrite ok s) := by
  unfold Machine.respondWrite
  split <;> exact h.respond hf _ _

theorem Inv.getRun (r : Byte) : Inv (Machine.getRun r s) := by
  rw [getRun_eq_respond]
  exact h.respond hf _ _

/-- A response from registers that differ. -/
theorem Inv.respond_regs {x : RegFile} (hx : StatusOk x.status) (c : Code) (v : Word) :
    Inv (Machine.respond c v { s with x := x }) :=
  inv_respond (s := { s with x := x }) (h.released hf).spi (h.released hf).miso hx c v

/-- The end of INIT (R160). -/
theorem Inv.initFinish (err : Bool) : Inv (Machine.initFinish err s) := by
  rw [initFinish_eq]
  refine h.respond_regs hf ?_ _ _
  have h1 := h.statusOk
  have h2 : StatusOk (statusSet .idwarn true s.x.status) := h1.set_other (by decide) true
  unfold initStatus
  dsimp only
  split <;> split
  · exact (h2.set_other (by decide) true).set_initd
  · exact (h1.set_other (by decide) true).set_initd
  · exact h2.set_initd
  · exact h1.set_initd

/-- The end of MEASP (R186): in its last step MFAIL is still clear, and the temperature was written. -/
theorem Inv.measpFinish (hm : s.flag .mfail = false) (ht : s.flag .tvalid = true) (b5 : Rat) (samples : List Nat) :
    Inv (Machine.measpFinish b5 samples s) := by
  have hst : StatusOk (nsampSet samples.length s.x.status) := h.statusOk.setNsamp hm _
  by_cases hn : samples.length = 0
  · rw [measpFinish_of_no_sample_eq s hn]
    exact h.respond_regs hf (hst.set_mfail (b := true) fun _ => by simp [hn]) _ _
  · cases hP : calcPOf s.x b5 (meanOf samples) with
    | none =>
      rw [measpFinish_of_fault_eq s hn hP]
      exact h.respond_regs hf (hst.set_other (by decide) true) _ _
    | some P =>
      rw [measpFinish_of_pressure_eq s hn hP]
      exact h.respond_regs hf (hst.set_pvalid ((statusGet_setNsamp ..).trans ht)) _ _

end

/-- The update of UT writes no field but UTSTALE (R183). -/
theorem storeUt_status (w : Bool) (v : Int) (s : State) :
    (storeUt w v s).x.status = s.x.status ∨ (storeUt w v s).x.status = statusSet .utstale true s.x.status := by
  unfold storeUt
  split
  · exact .inl (RegFile.status_write .ut v _ (by decide))
  · exact .inr rfl

/-- The arithmetic of phase T writes ARITH, or TVALID and returns a `B5` (R182, R185). -/
theorem compensateT_status (s : State) :
    ((compensateT s).1 = none ∧ (compensateT s).2.x.status = statusSet .arith true s.x.status) ∨
    ((compensateT s).1.isSome = true ∧ (compensateT s).2.x.status = statusSet .tvalid true s.x.status) := by
  rw [compensateT_eq]
  split
  · exact .inl ⟨rfl, rfl⟩
  · exact .inr ⟨rfl, rfl⟩

/-- Step T3 (R40, R182, R187): a response, or the first step of phase P with the temperature written. -/
theorem Inv.stepT3 {s : State} (h : Inv s) (hq : s.seq = .t 3) : Inv (Machine.stepT3 s) := by
  have hf : frameOf s = none := by simp [frameOf, hq]
  have hmeas : s.seq.measuring = true := by rw [hq]; rfl
  have hi : statusGet .initd s.x.status = true := h.measuringInitd hmeas
  obtain ⟨x, hx⟩ := compensateT_storeUt_eq s.work.wok s.work.rd s
  have hu : StatusOk (storeUt s.work.wok s.work.rd s).x.status ∧ nsampGet (storeUt s.work.wok s.work.rd s).x.status = s.nsamp ∧
      ∀ f, f ≠ .utstale → statusGet f (storeUt s.work.wok s.work.rd s).x.status = s.flag f := by
    obtain e | e := storeUt_status s.work.wok s.work.rd s <;> rw [e]
    · exact ⟨h.statusOk, rfl, fun _ _ => rfl⟩
    · exact ⟨h.statusOk.set_other (by decide) true, nsampGet_set .., fun f hf => statusGet_set_ne hf ..⟩
  obtain ⟨hu, hnsamp, hflag⟩ := hu
  have hcomp := compensateT_status (storeUt s.work.wok s.work.rd s)
  unfold Machine.stepT3
  simp only [hx] at hcomp ⊢
  have hst : StatusOk x.status := by
    obtain ⟨-, e⟩ | ⟨-, e⟩ := hcomp <;> rw [e]
    · exact hu.set_other (by decide) true
    · exact hu.set_tvalid ((hflag _ (by decide)).trans hi)
  split
  next hcmd =>
    split
    · exact h.respond_regs hf hst _ _
    next b5 hb =>
      obtain ⟨e, -⟩ | ⟨-, e⟩ := hcomp
      · rw [e] at hb; cases hb
      obtain ⟨hmfail, hzero⟩ := h.measpCleared hmeas hcmd
      have hb := h.released hf
      refine inv_of_step (by simp [Seq.running]) ⟨hb.phase, hb.spi, hb.miso⟩ ?_ (h.rsp_eq_none (by simp [hq])) hst ?_
      · intro ht
        have hw := h.timerInWait ht
        rw [hq] at hw
        cases hw
      have hfl : ∀ f, f ≠ .utstale → f ≠ .tvalid → statusGet f x.status = s.flag f := fun f h1 h2 => by
        rw [e, statusGet_set_ne h2, hflag f h1]
      constructor
      · simp [hcmd, cmdFits]
      · simp
      · exact fun _ => (hfl _ (by decide) (by decide)).trans hi
      · exact fun _ => by simp [State.flag, e]
      · exact fun _ _ => ⟨(hfl _ (by decide) (by decide)).trans hmfail, by rw [State.nsamp, e, nsampGet_set, hnsamp, hzero]⟩
  next =>
    unfold meastFinish
    split <;> exact h.respond_regs hf hst _ _

/-! ## Every event -/

/-- An event of the step in progress keeps the invariant (R40, R41). -/
theorem Inv.seqTick {s : State} (h : Inv s) : Inv (Machine.seqTick s) := by
  have htxn : Inv (txnStep s) := by
    unfold txnStep
    split
    next hf => exact h.txnTick hf
    next => exact h
  have hstep := h.stepOk
  unfold Machine.seqTick
  cases hq : s.seq with
  | idle => exact h
  | respond => exact inv_endResponse s h hq
  | x0 => exact htxn
  | x1 =>
    have hf : frameOf s = none := by simp [frameOf, hq]
    simp only
    split
    · exact h.respondWrite hf _
    · exact h.respondRead hf _
  | g0 =>
    simp only
    split
    · exact h.getRun (by simp [frameOf, hq]) _
    · exact h
  | i n =>
    simp only
    split
    next hn => exact h.initFinish (by simp [frameOf, hq, hn, loadOrder]) _
    next => exact htxn
  | t n =>
    obtain ⟨hfits, -, hinitd, -, hcleared⟩ := hstep
    rw [hq] at hfits hinitd hcleared
    fin_cases n
    · exact htxn
    · exact h.waitTick (by rw [hq]; rfl) _ (by simp [Seq.running]) ⟨hfits, nofun, hinitd, nofun, hcleared⟩
    · exact htxn
    · exact h.stepT3 hq
  | p n j =>
    obtain ⟨hfits, hsamples, hinitd, htvalid, hcleared⟩ := hstep
    rw [hq] at hfits hsamples hinitd htvalid hcleared
    fin_cases j
    · exact htxn
    · exact h.waitTick (by rw [hq]; rfl) _ (by simp [Seq.running]) ⟨hfits, hsamples, hinitd, htvalid, hcleared⟩
    · exact htxn
  | p9 =>
    have hcmd : s.work.cmd = some .measp := by simpa [hq, cmdFits] using h.cmdOfSeq
    exact h.measpFinish (by simp [frameOf, hq]) (h.measpCleared (by rw [hq]; rfl) hcmd).1 (h.pressingTvalid (by rw [hq]; rfl)) _ _

/-- A command taken in IDLE enters its first step, or is refused (R41, R106). -/
theorem Inv.start {s : State} (h : Inv s) (hq : s.seq = .idle) (i : Instr) : Inv (Machine.start i s) := by
  have hf : frameOf s = none := by simp [frameOf, hq]
  obtain ⟨-, hspi, hmiso⟩ := h.released hf
  have hr := h.rsp_eq_none (by simp [hq])
  have hst := h.statusOk
  have hrefuse (c : Condition) : Inv (refuse c s) := h.respond hf _ _
  unfold Machine.start
  cases i with
  | init =>
    refine inv_of_step (by simp [Seq.running]) ⟨rfl, hspi, hmiso⟩ nofun hr
      ((hst.set_other (by decide) false).set_other (by decide) false) ⟨rfl, nofun, nofun, nofun, nofun⟩
  | meast =>
    simp only
    split
    next hi =>
      have hi' : (meastStart s).flag .initd = true := by simpa [State.flag_meastStart] using hi
      exact inv_of_step (by simp [Seq.running]) ⟨rfl, hspi, hmiso⟩ nofun hr
        ((hst.set_other (by decide) false).set_other (by decide) false) ⟨rfl, nofun, fun _ => hi', nofun, nofun⟩
    next => exact hrefuse _
  | measp =>
    simp only
    split
    next hi =>
      have hi' : (measpStart s).flag .initd = true := by simpa [State.flag_measpStart] using hi
      have hm : (measpStart s).flag .mfail = false := by simp [State.flag_measpStart]
      have hstart : StatusOk (statusSet .arith false (statusSet .utstale false s.x.status)) :=
        (hst.set_other (by decide) _).set_other (by decide) _
      have hst' : StatusOk (measpStart s).x.status :=
        (hstart.set_mfail (b := false) (by simp)).setNsamp (statusGet_set_same ..) 0
      exact inv_of_step (by simp [Seq.running]) ⟨rfl, hspi, hmiso⟩ nofun hr hst'
        ⟨rfl, nofun, fun _ => hi', nofun, fun _ _ => ⟨hm, State.nsamp_setNsamp ..⟩⟩
    next => exact hrefuse _
  | get r =>
    simp only
    split
    · exact hrefuse _
    · split
      · exact inv_of_step (by simp [Seq.running]) ⟨rfl, hspi, hmiso⟩ nofun hr hst ⟨rfl, nofun, nofun, nofun, nofun⟩
      · exact hrefuse _
  | rdb | rdw | rdt | wrr =>
    exact inv_of_step (by simp [Seq.running]) ⟨rfl, hspi, hmiso⟩ nofun hr hst ⟨rfl, nofun, nofun, nofun, nofun⟩

theorem lowerRsp_eq_self {s : State} (h : s.rsp = none) : lowerRsp s = s := by
  unfold lowerRsp
  rw [← h]

/-! ## The obligations -/

theorem statusOk_reset : StatusOk RegFile.reset.status := ⟨rfl, nofun, nofun, nofun⟩

theorem inv_applyReset (s : State) : Inv (applyReset s) :=
  inv_of_rest _ (.inl rfl) rfl rfl rfl rfl statusOk_reset.reserved statusOk_reset.tvalid statusOk_reset.pvalid statusOk_reset.mfail

/-- Settles O53: `State.reset` is what reset leaves of it. -/
theorem invariantAtReset : Obligations.InvariantAtReset := inv_applyReset State.reset

/-- Settles O55: reset, the event of an idle block, and the event of the step in progress. -/
theorem tickKeepsInvariant : Obligations.TickKeepsInvariant := by
  intro p s h
  unfold tick
  split
  · exact inv_applyReset s
  split
  next hq =>
    rw [lowerRsp_eq_self (h.rsp_eq_none (by simp [hq]))]
    split
    · exact h
    · split
      · exact h.start hq _
      · exact h.respond (by simp [frameOf, hq]) _ _
  next => exact h.seqTick

/-- Settles O56: in these steps no session is open, so the master is `Spi.idle`. -/
theorem busIsReleasedInWaitsAndIdle : Obligations.BusIsReleasedInWaitsAndIdle := by
  intro s h hq
  have hf : frameOf s = none := by
    rcases hq with hq | hq | hq
    · exact frameOf_waiting hq
    · simp [frameOf, hq]
    · simp [frameOf, hq]
  rw [(h.released hf).spi]
  exact ⟨rfl, rfl⟩

/-- Settles O58: a running step list answers (`Running.exists_answersAfter`), and the event after its response ends in IDLE. -/
theorem busyBlockReturnsToIdle : Obligations.BusyBlockReturnsToIdle := by
  intro s h
  by_cases hidle : s.seq = .idle
  · exact ⟨0, (State.cmdReady_iff s).mpr hidle⟩
  have hends : ∃ n, (seqTicks n s).seq = .respond := by
    by_cases hq : s.seq = .respond
    · exact ⟨0, hq⟩
    · obtain ⟨n, -, -, hn, -⟩ := Running.exists_answersAfter ⟨⟨hidle, hq⟩, h.cmdOfSeq, h.rsp_eq_none hq⟩
      exact ⟨n, hn⟩
  obtain ⟨n, hn⟩ := hends
  refine ⟨n + 1, (State.cmdReady_iff _).mpr ?_⟩
  rw [seqTicks_succ, seqTick_respond hn]
  rfl

end Sys2Proof.Machine
end

section
/-! PROOFS of the family other, the two readings of a command (`10_state.md` R40, R41; log 1): the step list, event by event and edge by
edge, reaches the state that `exec` gives. `exec` does not look at the step in progress, so the state of a running step list is the
state of `exec` placed in a step (`State.inStep`). A transaction step runs to `afterTxn` of what `TXN` returns (`reaches_txn`), a wait
step to the step that follows (`reaches_wait`), and the commands are chains of these. -/

namespace Sys2Proof.Machine

/-! ## Reaching a state -/

/-- Finitely many events of the step lists lead from `s` to `t`. -/
def Reaches (s t : State) : Prop := ∃ n, seqTicks n s = t

section
variable {s t u : State}

theorem Reaches.refl (s : State) : Reaches s s := ⟨0, rfl⟩

theorem Reaches.trans (h : Reaches s t) (h' : Reaches t u) : Reaches s u := by
  obtain ⟨m, rfl⟩ := h
  obtain ⟨n, rfl⟩ := h'
  exact ⟨m + n, seqTicks_add m n s⟩

theorem Reaches.head (h : Reaches (seqTick s) t) : Reaches s t := by
  obtain ⟨n, hn⟩ := h
  exact ⟨n + 1, hn⟩

theorem Reaches.single (s : State) : Reaches s (seqTick s) := (Reaches.refl _).head

/-- IDLE is left by a command only. -/
theorem seqTicks_idle (hs : s.seq = .idle) (n : Nat) : seqTicks n s = s := by
  have h1 : seqTick s = s := by rw [seqTick, hs]
  induction n with
  | zero => rfl
  | succ n ih => rw [seqTicks, h1, ih]

/-- Before the cycle of a response there is neither another one nor IDLE. -/
theorem running_of_seqTicks_respond {n m : Nat} (h : (seqTicks n s).seq = .respond) (hm : m < n) : (seqTicks m s).seq.running := by
  obtain ⟨k, rfl⟩ : ∃ k, n = m + (k + 1) := ⟨n - m - 1, by omega⟩
  rw [seqTicks_add] at h
  constructor <;> intro hq
  · rw [seqTicks_idle hq, hq] at h
    cases h
  · rw [seqTicks, seqTick_respond hq, seqTicks_idle (endResponse_seq _)] at h
    cases h

/-! ## The state of a step list -/

/-- `s` in step `q` with the hidden state `w`. -/
def State.inStep (q : Seq) (w : Work) (s : State) : State := { s with seq := q, work := w }

variable (q : Seq) (w : Work)

theorem inStep_work (s : State) : (s.inStep q w).work = w := rfl

theorem txn_inStep (out : List Byte) (s : State) : txn out (s.inStep q w) = ((txn out s).1, (txn out s).2.inStep q w) := by
  rw [txn_eq, txn_eq]
  rfl

end

/-! ## A transaction step -/

theorem seqTick_of_frameOf {s : State} {out : List Byte} (hf : frameOf s = some out) : seqTick s = txnTick out s := by
  have hstep : txnStep s = txnTick out s := by rw [txnStep, hf]
  rw [← hstep]
  unfold frameOf at hf
  unfold seqTick
  cases hq : s.seq with
  | i n =>
    rw [hq] at hf
    have hn : n.val ≠ 13 := by
      intro hn
      simp [hn, loadOrder] at hf
    simp only [hn, if_false]
  | t n => rw [hq] at hf; fin_cases n <;> first | rfl | cases hf
  | p n j => rw [hq] at hf; fin_cases j <;> first | rfl | cases hf
  | x0 => rfl
  | _ => simp [hq] at hf

/-- The end of XFER as one state (R123). -/
theorem endXfer_eq_status (out : List Byte) (s : State) : endXfer out s =
    { s with
      x := { s.x with status := if s.spi.byteCnt < out.length then statusSet .xfererr true s.x.status else s.x.status }
      trace := s.trace ++ [.evXfer out s.spi.byteCnt s.spi.rxBuf] } := by
  simp only [endXfer]
  split <;> rfl

/-- A session in progress: `s` in its step with the phase `ph`, the master `sp` and the bytes `inp` still to come. -/
def State.inSession (ph : Phase) (sp : Spi) (inp : List Byte) (s : State) : State :=
  { s with work := { s.work with phase := ph }, spi := sp, env := { s.env with miso := inp } }

section
variable {s : State} {out : List Byte} (hf : frameOf s = some out)
include hf

theorem seqTick_inSession (ph : Phase) (sp : Spi) (inp : List Byte) :
    seqTick (s.inSession ph sp inp) = txnTick out (s.inSession ph sp inp) :=
  seqTick_of_frameOf ((frameOf_congr rfl rfl rfl).trans hf)

theorem seqTick_fall (sp : Spi) (inp : List Byte) : seqTick (s.inSession .fall sp inp) = s.inSession .rise sp.fall inp :=
  seqTick_inSession hf ..

theorem seqTick_rise (sp : Spi) (b : Byte) (inp : List Byte) :
    seqTick (s.inSession .rise sp (b :: inp)) =
      let sp' := sp.rise (b.getLsbD (7 - sp.bitCnt))
      if sp'.bitCnt < 8 then s.inSession .fall sp' (b :: inp) else s.inSession .gap sp'.endByte inp :=
  seqTick_inSession hf ..

theorem seqTick_gap_of_byte {o : Byte} (sp : Spi) (ho : out[sp.byteCnt]? = some o) (b : Byte) (inp : List Byte) :
    seqTick (s.inSession .gap sp (b :: inp)) = s.inSession .fall (sp.load o) (b :: inp) := by
  rw [seqTick_inSession hf, txnTick]
  simp [State.inSession, ho]

/-- The bits of a byte from bit `sp.bitCnt` on: each is a falling and a rising edge (R127). -/
theorem reaches_bits (b : Byte) (inp : List Byte) {k : Nat} (sp : Spi) (hk : sp.bitCnt + (k + 1) = 8) :
    Reaches (s.inSession .fall sp (b :: inp))
      (s.inSession .gap (sp.shiftBits ((bitsMsbFirst b).drop sp.bitCnt)).endByte inp) := by
  have hbits : (bitsMsbFirst b).drop sp.bitCnt = b.getLsbD (7 - sp.bitCnt) :: (bitsMsbFirst b).drop (sp.bitCnt + 1) := by
    rw [List.drop_eq_getElem_cons (by simp [bitsMsbFirst]; omega)]
    simp [bitsMsbFirst]
  rw [hbits]
  refine Reaches.head (Reaches.head ?_)
  rw [seqTick_fall hf, seqTick_rise hf]
  cases k with
  | zero =>
    have hlast : ¬ sp.bitCnt + 1 < 8 := by omega
    have hnil : (bitsMsbFirst b).drop (sp.bitCnt + 1) = [] := List.drop_eq_nil_of_le (by simp [bitsMsbFirst]; omega)
    rw [hnil]
    exact (if_neg hlast).symm ▸ Reaches.refl _
  | succ k =>
    have hmore : sp.bitCnt + 1 < 8 := by omega
    refine (if_pos hmore).symm ▸ ?_
    exact reaches_bits b inp (k := k) (sp.fall.rise (b.getLsbD (7 - sp.bitCnt))) (by simp [Spi.rise, Spi.fall]; omega)

/-- A byte goes out and a byte comes in (R123, R127, R130). -/
theorem reaches_byte {o : Byte} (sp : Spi) (ho : out[sp.byteCnt]? = some o) (b : Byte) (inp : List Byte) :
    Reaches (s.inSession .gap sp (b :: inp)) (s.inSession .gap (sp.byte o b) inp) := by
  refine Reaches.head ?_
  rw [seqTick_gap_of_byte hf sp ho]
  exact reaches_bits hf b inp (k := 7) (sp.load o) rfl

/-- XFER ends when the frame or the environment has no more bytes (R123). -/
theorem seqTick_gap_of_end (sp : Spi) (inp : List Byte) (hend : out[sp.byteCnt]? = none ∨ inp = []) :
    seqTick (s.inSession .gap sp inp) = (endXfer out { s with spi := sp }).inSession .closing sp inp := by
  have hx : { endXfer out (s.inSession .gap sp inp) with work := { s.work with phase := .closing } } =
      (endXfer out { s with spi := sp }).inSession .closing sp inp := by
    rw [endXfer_eq_status, endXfer_eq_status]
    rfl
  rw [seqTick_inSession hf, txnTick, ← hx]
  rcases hend with h | rfl
  · simp [State.inSession, h]
  · simp [State.inSession]

variable (hp : s.work.phase = .closed) (hm : s.env.miso = [])
include hp hm

/-- The end of XFER and CLOSE (R123, R124). -/
theorem reaches_close (sp : Spi) (inp : List Byte) (hend : out[sp.byteCnt]? = none ∨ inp = []) :
    Reaches (s.inSession .gap sp inp) (afterTxn (sp.byteCnt, sp.rxBuf) (closeSession (endXfer out { s with spi := sp }))) := by
  have hf' : frameOf (endXfer out { s with spi := sp }) = some out := by
    rw [endXfer_eq_status]
    exact (frameOf_congr rfl rfl rfl).trans hf
  refine Reaches.head (Reaches.head ?_)
  rw [seqTick_gap_of_end hf sp inp hend, seqTick_inSession hf', endXfer_eq_status]
  have hwork : { s.work with phase := .closed } = s.work := by rw [← hp]
  have henv : { s.env with miso := [] } = s.env := by rw [← hm]
  simp only [txnTick, State.inSession, hwork, henv]
  exact Reaches.refl _

/-- The rest of XFER from byte `sp.byteCnt` on, and CLOSE (R123, R124). -/
theorem reaches_xfer (inp : List Byte) (sp : Spi) :
    Reaches (s.inSession .gap sp inp)
      (let sp' := sp.xfer (out.drop sp.byteCnt) inp
       afterTxn (sp'.byteCnt, sp'.rxBuf) (closeSession (endXfer out { s with spi := sp' }))) := by
  induction inp generalizing sp with
  | nil =>
    have hx : sp.xfer (out.drop sp.byteCnt) [] = sp := by cases out.drop sp.byteCnt <;> rfl
    rw [hx]
    exact reaches_close hf hp hm sp [] (.inr rfl)
  | cons b inp ih =>
    cases ho : out[sp.byteCnt]? with
    | none =>
      have hdrop : out.drop sp.byteCnt = [] := List.drop_eq_nil_of_le (List.getElem?_eq_none_iff.mp ho)
      rw [hdrop]
      exact reaches_close hf hp hm sp _ (.inl ho)
    | some o =>
      obtain ⟨hlt, ho'⟩ := List.getElem?_eq_some_iff.mp ho
      obtain ⟨-, hcnt, -⟩ := Spi.byte_frame o b sp
      have h := (reaches_byte hf sp ho b inp).trans (ih (sp.byte o b))
      rw [hcnt] at h
      rw [List.drop_eq_getElem_cons hlt, ho']
      exact h

/-- A transaction step runs to what the step does with the result of `TXN` (R40, R120). -/
theorem reaches_txn : Reaches s (afterTxn (txn out s).1 (txn out s).2) := by
  refine Reaches.head ?_
  rw [seqTick_of_frameOf hf, txnTick, hp]
  unfold txn
  simp only [takeDraw_eq]
  split
  next ha =>
    have hf' : frameOf ({ s with env := envAfter 1 s.env }.emit (.evOpen true)) = some out := (frameOf_congr rfl rfl rfl).trans hf
    exact reaches_xfer hf' hp hm (drawAt s 0).bytes s.spi.begin
  next => exact Reaches.refl _

end

/-! ## A wait step -/

/-- `q` is a wait step of `us` microseconds, and `q'` the step that follows (R40, R262). -/
def WaitStep (q : Seq) (us : Nat) (q' : Seq) : Prop :=
  q = .t 1 ∧ us = 4500 ∧ q' = .t 2 ∨ ∃ i, q = .p i 1 ∧ us = 25500 ∧ q' = .p i 2

/-- A wait from `s` in progress: traced, with `n` counts left. -/
def State.inWait (us n : Nat) (s : State) : State :=
  { s with trace := s.trace ++ [.evWait us], work := { s.work with timer := some n } }

section
variable {s : State} {us : Nat} {q : Seq} (hw : WaitStep s.seq us q)
include hw

theorem seqTick_of_waitStep {t : State} (ht : t.seq = s.seq) : seqTick t = waitTick us q t := by
  unfold seqTick
  obtain ⟨hq, rfl, rfl⟩ | ⟨i, hq, rfl, rfl⟩ := hw <;> rw [ht, hq] <;> rfl

theorem seqTick_inWait_succ (n : Nat) : seqTick (s.inWait us (n + 1)) = s.inWait us n := seqTick_of_waitStep hw rfl

variable (ht : s.work.timer = none)
include ht

/-- The event and the timer loaded come first (R262). -/
theorem seqTick_wait : seqTick s = s.inWait us (waitCycles s.params us) := by
  rw [seqTick_of_waitStep hw rfl, waitTick, ht]
  rfl

theorem seqTick_inWait_zero : seqTick (s.inWait us 0) = { wait us s with seq := q } := by
  have hwork : { s.work with timer := none } = s.work := by rw [← ht]
  rw [seqTick_of_waitStep hw (t := s.inWait us 0) rfl]
  simp only [waitTick, State.inWait, hwork]
  rfl

/-- Each further event takes one count off (R262). -/
theorem seqTicks_wait {k : Nat} (hk : k ≤ waitCycles s.params us) :
    seqTicks (k + 1) s = s.inWait us (waitCycles s.params us - k) := by
  induction k with
  | zero => exact seqTick_wait hw ht
  | succ k ih =>
    rw [seqTicks_succ, ih (by omega), show waitCycles s.params us - k = waitCycles s.params us - (k + 1) + 1 by omega,
      seqTick_inWait_succ hw]

/-- The step that follows is entered from zero only (R262). -/
theorem seqTicks_wait_end : seqTicks (waitCycles s.params us + 2) s = { wait us s with seq := q } := by
  rw [seqTicks_succ, seqTicks_wait hw ht (Nat.le_refl _), Nat.sub_self, seqTick_inWait_zero hw ht]

theorem reaches_wait : Reaches s { wait us s with seq := q } := ⟨_, seqTicks_wait_end hw ht⟩

end

/-- Settles O43: the count is a quotient rounded up, and a wait step counts it down (`seqTicks_wait`, `seqTicks_wait_end`). -/
theorem waitTimerIsLeastCover : Obligations.WaitTimerIsLeastCover := by
  refine ⟨fun p us => ?_, fun s us q ht hw => ⟨fun k hk => seqTicks_wait hw ht hk, seqTicks_wait_end hw ht⟩⟩
  unfold waitCycles
  omega

/-! ## The register commands -/

section
variable (s : State) (q : Seq) (w : Work)

/-- A command's end does not look at the step in progress. -/
theorem initFinish_inStep (err : Bool) : initFinish err (s.inStep q w) = initFinish err s := by
  rw [initFinish_eq, initFinish_eq]
  rfl

theorem measpFinish_inStep (b5 : Rat) (samples : List Nat) :
    measpFinish b5 samples (s.inStep q w) = measpFinish b5 samples s := rfl

theorem storeUt_inStep (ok : Bool) (v : Int) : storeUt ok v (s.inStep q w) = (storeUt ok v s).inStep q w := by
  unfold storeUt
  split <;> rfl

theorem compensateT_inStep : compensateT (s.inStep q w) = ((compensateT s).1, (compensateT s).2.inStep q w) := by
  have hx : calcTOf (s.inStep q w).x = calcTOf s.x := rfl
  rw [compensateT_eq, compensateT_eq, hx]
  cases calcTOf s.x <;> rfl

end

section
variable {s : State} (hm : s.env.miso = [])
include hm

/-- A transaction step of a running command. -/
theorem reaches_txn_inStep {q : Seq} {w : Work} {out : List Byte} (hf : frameOf (s.inStep q w) = some out)
    (hp : w.phase = .closed) : Reaches (s.inStep q w) (afterTxn (txn out s).1 ((txn out s).2.inStep q w)) := by
  have h := reaches_txn hf hp hm
  rwa [txn_inStep] at h

/-- A read command: X0 and X1 (R142 to R144). -/
theorem reaches_respondRead {i : Instr} {a : Byte} {n : Nat}
    (hi : (i = .rdb a ∧ n = 1) ∨ (i = .rdw a ∧ n = 2) ∨ (i = .rdt a ∧ n = 3)) :
    Reaches (enter i .x0 s) (respondRead (memRead a n s).1 (memRead a n s).2) := by
  obtain ⟨rfl, rfl⟩ | ⟨rfl, rfl⟩ | ⟨rfl, rfl⟩ := hi
  all_goals exact (reaches_txn_inStep hm rfl rfl).trans (Reaches.single _)

/-- A write command: X0 and X1 (R146). -/
theorem reaches_respondWrite (a v : Byte) :
    Reaches (enter (.wrr a v) .x0 s) (respondWrite (memWrite a v s).1 (memWrite a v s).2) :=
  (reaches_txn_inStep hm rfl rfl).trans (Reaches.single _)

end

/-! ## INIT -/

/-- The hidden state of INIT (R160). -/
def initWork (err : Bool) : Work := { Work.idle with cmd := some .init, err := err }

/-- A transaction leaves no byte of its session to come. -/
theorem txn_miso (out : List Byte) (s : State) : (txn out s).2.env.miso = s.env.miso := by rw [txn_eq]; rfl

theorem txn_params (out : List Byte) (s : State) : (txn out s).2.params = s.params := by rw [txn_eq]

/-- A value read is stored, and the next read is entered (R160). -/
theorem afterTxn_load {t : State} {k : Nat} {e : LoadEntry} (hget : (loadOrder t.params)[k]? = some e) (hk : k < 14)
    (hlt : k + 1 < 14) (err : Bool) (r : Nat × List Byte) : afterTxn r (t.inStep (.i ⟨k, hk⟩) (initWork err)) =
      (storeLoaded e (readValue e.n r) (err, t)).2.inStep (.i ⟨k + 1, hlt⟩)
        (initWork (storeLoaded e (readValue e.n r) (err, t)).1) := by
  simp only [afterTxn, State.inStep, hget, nextI, hlt, dite_true]
  rfl

/-- The reads from step I`k` on, and the end of INIT (R40, R160, R161). -/
theorem reaches_initFinish (es : List LoadEntry) {s : State} (hm : s.env.miso = []) (err : Bool) {k : Nat} (hk : k < 14)
    (hes : (loadOrder s.params).drop k = es) :
    Reaches (s.inStep (.i ⟨k, hk⟩) (initWork err)) (initFinish (loadAll es (err, s)).1 (loadAll es (err, s)).2) := by
  induction es generalizing s err k with
  | nil =>
    have hlen := List.drop_eq_nil_iff.mp hes
    rw [loadOrder_length] at hlen
    have h13 : k = 13 := by omega
    subst h13
    have h := Reaches.single (s.inStep (.i ⟨13, hk⟩) (initWork err))
    have hend : seqTick (s.inStep (.i ⟨13, hk⟩) (initWork err)) = initFinish err (s.inStep (.i ⟨13, hk⟩) (initWork err)) := rfl
    rwa [hend, initFinish_inStep] at h
  | cons e es ih =>
    have hlt : k < (loadOrder s.params).length := by
      by_contra h
      rw [List.drop_eq_nil_of_le (Nat.le_of_not_lt h)] at hes
      cases hes
    have hlt' : k + 1 < 14 := Nat.succ_lt_succ hlt
    rw [List.drop_eq_getElem_cons hlt] at hes
    obtain ⟨he, hes⟩ := List.cons.inj hes
    have hget : (loadOrder s.params)[k]? = some e := by rw [List.getElem?_eq_getElem hlt, he]
    have hf : frameOf (s.inStep (.i ⟨k, hk⟩) (initWork err)) = some (frameRead e.addr e.n) := by
      simp [frameOf, State.inStep, hget]
    have hget' : (loadOrder (txn (frameRead e.addr e.n) s).2.params)[k]? = some e := by rw [txn_params, hget]
    have h := reaches_txn_inStep hm hf rfl
    rw [afterTxn_load hget' hk hlt'] at h
    exact h.trans (ih (s := (loadOne (err, s) e).2) ((txn_miso ..).trans hm) _ hlt' ((txn_params (frameRead e.addr e.n) s).symm ▸ hes))

/-! ## MEAST and MEASP -/

section
variable {s : State} (hm : s.env.miso = []) {w : Work} (hp : w.phase = .closed) (ht : w.timer = none)
include hm hp ht

/-- What a temperature and a pressure sample share: a write in step `q0`, a wait in `q1`, a read in `q2` (R182, R188). -/
theorem reaches_writeWaitRead {q0 q1 q2 : Seq} {us : Nat} {fw fr : List Byte}
    (hwrite : ∀ (r : Nat × List Byte) (t : State), afterTxn r (t.inStep q0 w) = t.inStep q1 { w with wok := writeOk r })
    (hfw : frameOf (s.inStep q0 w) = some fw) (hw : WaitStep q1 us q2)
    (hfr : ∀ (t : State) (w' : Work), t.params = s.params → frameOf (t.inStep q2 w') = some fr) :
    Reaches (s.inStep q0 w)
      (let s1 := wait us (txn fw s).2
       afterTxn (txn fr s1).1 ((txn fr s1).2.inStep q2 { w with wok := writeOk (txn fw s).1 })) := by
  have h0 := reaches_txn_inStep hm hfw hp
  rw [hwrite] at h0
  have h1 := reaches_wait (s := (txn fw s).2.inStep q1 { w with wok := writeOk (txn fw s).1 }) hw ht
  have h2 := reaches_txn_inStep (s := wait us (txn fw s).2) (w := { w with wok := writeOk (txn fw s).1 })
    ((txn_miso ..).trans hm) (hfr _ _ (txn_params ..)) hp
  exact h0.trans (h1.trans h2)

/-- Steps T0 to T2 (R40, R182). -/
theorem reaches_sampleT : Reaches (s.inStep (.t 0) w)
    ((sampleT s).2.2.inStep (.t 3) { w with wok := (sampleT s).1, rd := (sampleT s).2.1 }) :=
  reaches_writeWaitRead (q0 := .t 0) (q1 := .t 1) (q2 := .t 2) hm hp ht
    (fun _ _ => rfl) rfl (.inl ⟨rfl, rfl, rfl⟩) (fun _ _ e => e ▸ rfl)

/-- Steps P(`i`,0) to P(`i`,2) (R40, R188). -/
theorem reaches_sampleP (i : Fin 3) : Reaches (s.inStep (.p i 0) w)
    ((sampleP s).2.2.inStep (nextP i)
      { w with wok := (sampleP s).1, samples := recordSample (sampleP s).1 (sampleP s).2.1 w.samples }) :=
  reaches_writeWaitRead (q0 := .p i 0) (q1 := .p i 1) (q2 := .p i 2) hm hp ht
    (fun _ _ => rfl) rfl (.inr ⟨i, rfl, rfl, rfl⟩) (fun _ _ e => e ▸ rfl)

end

/-- The first step of iteration `k` of phase P, or P9 after the last (R40). -/
def pressStep (k : Nat) : Seq := if h : k < 3 then .p ⟨k, h⟩ 0 else .p9

/-- Phase P from iteration `k` on (R40, R186). -/
theorem reaches_measpFinish (n : Nat) {s : State} (hm : s.env.miso = []) {w : Work} (hp : w.phase = .closed)
    (ht : w.timer = none) {k : Nat} (hk : k + n = 3) : Reaches (s.inStep (pressStep k) w)
      (measpFinish w.b5 (samplesP n (w.samples, s)).1 (samplesP n (w.samples, s)).2) := by
  induction n generalizing s w k with
  | zero =>
    obtain rfl : k = 3 := hk
    have h := Reaches.single (s.inStep .p9 w)
    exact measpFinish_inStep s .p9 w w.b5 w.samples ▸ h
  | succ n ih =>
    have hlt : k < 3 := by omega
    have h := reaches_sampleP hm hp ht ⟨k, hlt⟩
    have hm' : (sampleP s).2.2.env.miso = [] := by rw [sampleP_eq]; exact hm
    rw [pressStep, dif_pos hlt]
    exact h.trans (ih hm' (w := { w with
      wok := (sampleP s).1, samples := recordSample (sampleP s).1 (sampleP s).2.1 w.samples }) hp ht (k := k + 1) (by omega))

theorem phaseT_miso (s : State) : (phaseT s).2.env.miso = s.env.miso := by
  obtain ⟨-, -, -, -, -, henv, -⟩ := phaseT_frame s
  rw [henv]
  rfl

section
variable {s : State} {w : Work} (hok : w.wok = (sampleT s).1) (hrd : w.rd = (sampleT s).2.1)
include hok hrd

/-- Step T3 computes phase T from what the bus part left (R40, R182). -/
theorem compensateT_of_sampleT : compensateT (storeUt w.wok w.rd ((sampleT s).2.2.inStep (.t 3) w)) =
    ((phaseT s).1, (phaseT s).2.inStep (.t 3) w) := by
  rw [storeUt_inStep, compensateT_inStep, hok, hrd]
  rfl

theorem stepT3_meast (hc : w.cmd = some .meast) :
    stepT3 ((sampleT s).2.2.inStep (.t 3) w) = meastFinish (phaseT s).1 (phaseT s).2 := by
  have hT := compensateT_of_sampleT hok hrd
  simp only [stepT3, inStep_work, hT, hc]
  cases (phaseT s).1 <;> rfl

theorem stepT3_measp_of_fault (hc : w.cmd = some .measp) (hr : (phaseT s).1 = none) :
    stepT3 ((sampleT s).2.2.inStep (.t 3) w) = phaseP none (phaseT s).2 := by
  have hT := compensateT_of_sampleT hok hrd
  simp only [stepT3, inStep_work, hT, hc, hr]
  rfl

theorem stepT3_measp_of_b5 (hc : w.cmd = some .measp) {b5 : Rat} (hr : (phaseT s).1 = some b5) :
    stepT3 ((sampleT s).2.2.inStep (.t 3) w) = (phaseT s).2.inStep (.p 0 0) { w with b5 := b5, samples := [] } := by
  have hT := compensateT_of_sampleT hok hrd
  simp only [stepT3, inStep_work, hT, hc, hr]
  rw [← hc]
  rfl

end

section
variable {s : State} (hm : s.env.miso = [])
include hm

/-- A measurement up to step T3 (R40). -/
theorem reaches_stepT3 (i : Instr) : Reaches (enter i (.t 0) s)
    (stepT3 ((sampleT s).2.2.inStep (.t 3) { Work.idle with cmd := some i, wok := (sampleT s).1, rd := (sampleT s).2.1 })) :=
  (reaches_sampleT (w := { Work.idle with cmd := some i }) hm rfl rfl).trans (Reaches.single _)

/-- MEAST from its first step on (R40, R181). -/
theorem reaches_meastFinish : Reaches (enter .meast (.t 0) s) (meastFinish (phaseT s).1 (phaseT s).2) := by
  rw [← stepT3_meast (w := { Work.idle with cmd := some .meast, wok := (sampleT s).1, rd := (sampleT s).2.1 }) rfl rfl rfl]
  exact reaches_stepT3 hm .meast

/-- MEASP from its first step on (R40, R186, R187). -/
theorem reaches_phaseP : Reaches (enter .measp (.t 0) s) (phaseP (phaseT s).1 (phaseT s).2) := by
  have h := reaches_stepT3 hm .measp
  cases hr : (phaseT s).1 with
  | none =>
    rw [stepT3_measp_of_fault rfl rfl rfl hr] at h
    exact h
  | some b5 =>
    rw [stepT3_measp_of_b5 rfl rfl rfl hr] at h
    exact h.trans (reaches_measpFinish 3 ((phaseT_miso s).trans hm) rfl rfl (k := 0) rfl)

end

/-! ## Every command -/

/-- The state a command leaves. -/
def runOf (s : State) : Instr → State
  | .init => initFinish (loadAll (loadOrder s.params) (false, initStart s)).1 (loadAll (loadOrder s.params) (false, initStart s)).2
  | .meast => meastRun s
  | .measp => measpRun s
  | .get r => getRun r s
  | .rdb a => respondRead (memRead a 1 s).1 (memRead a 1 s).2
  | .rdw a => respondRead (memRead a 2 s).1 (memRead a 2 s).2
  | .rdt a => respondRead (memRead a 3 s).1 (memRead a 3 s).2
  | .wrr a d => respondWrite (memWrite a d s).1 (memWrite a d s).2

theorem exec_eq_runOf (i : Instr) (s : State) : exec i s = .next (runOf s i) := by cases i <;> rfl

/-- Every command ends in the cycle of its response (R103). -/
theorem runOf_seq (i : Instr) (s : State) : (runOf s i).seq = .respond := by
  cases i with
  | init => exact (answers_initFinish ..).1
  | meast =>
    simp only [runOf, meastRun]
    split
    · exact (answers_meastFinish ..).1
    · rfl
  | measp =>
    simp only [runOf, measpRun, phaseP]
    split
    · split
      · rfl
      · exact (answers_measpFinish ..).1
    · rfl
  | get => exact (answers_getRun ..).1
  | rdb | rdw | rdt => exact (answers_respondRead ..).1
  | wrr => exact (answers_respondWrite ..).1

/-- The step list of a command reaches the state its meaning gives (R40, R41). -/
theorem reaches_runOf (i : Instr) {s : State} (hm : s.env.miso = []) : Reaches (start i s) (runOf s i) := by
  cases i with
  | init => exact reaches_initFinish _ (s := initStart s) hm false (k := 0) (by decide) rfl
  | meast =>
    simp only [start, runOf, meastRun]
    split
    · exact reaches_meastFinish (s := meastStart s) hm
    · exact .refl _
  | measp =>
    simp only [start, runOf, measpRun]
    split
    · exact reaches_phaseP (s := measpStart s) hm
    · exact .refl _
  | get r =>
    have hreads : Reaches (enter (.get r) .g0 s) (getRun r s) := Reaches.single (enter (.get r) .g0 s)
    cases hg : Reg.ofNum r with
    | none => simp only [start, runOf, getRun, hg]; exact .refl _
    | some g =>
      simp only [start, runOf, hg]
      split
      next => exact hreads
      next hv => simp only [getRun, hg, if_neg hv]; exact .refl _
  | rdb a => exact reaches_respondRead hm (.inl ⟨rfl, rfl⟩)
  | rdw a => exact reaches_respondRead hm (.inr (.inl ⟨rfl, rfl⟩))
  | rdt a => exact reaches_respondRead hm (.inr (.inr ⟨rfl, rfl⟩))
  | wrr a d => exact reaches_respondWrite hm a d

/-- Settles O57: the step list reaches the state of the command (`reaches_runOf`), which is in the cycle of a response, and there is no
such cycle on the way. -/
theorem sequencerRefinesCommand : Obligations.SequencerRefinesCommand := by
  intro i s h hq
  obtain ⟨n, hn⟩ := reaches_runOf i (h.released (by simp [frameOf, hq])).miso
  refine ⟨n, hn ▸ exec_eq_runOf i s, fun m hm => ?_⟩
  obtain ⟨hidle, hrespond⟩ := running_of_seqTicks_respond (hn ▸ runOf_seq i s) hm
  exact ⟨hrespond, by simpa [State.cmdReady] using hidle⟩

/-! ## Steps keep the invariant -/

section
variable {s t : State}

theorem Inv.of_reaches (h : Inv s) (hr : Reaches s t) : Inv t := by
  obtain ⟨n, rfl⟩ := hr
  induction n generalizing s with
  | zero => exact h
  | succ n ih => exact ih h.seqTick

/-- A command keeps the invariant: its step list does. -/
theorem Inv.runOf (h : Inv s) (hq : s.seq = .idle) (i : Instr) : Inv (Machine.runOf s i) :=
  (h.start hq i).of_reaches (reaches_runOf i (h.released (by simp [frameOf, hq])).miso)

/-- The invariant does not speak of the inputs to come. -/
theorem Inv.withHost (h : Inv s) (ps : List PortIn) : Inv { s with host := ps } := by
  cases h
  constructor <;> assumption

theorem takePort_eq (s : State) : ∃ ps, (takePort s).2 = { s with host := ps } := by
  unfold takePort
  split <;> exact ⟨_, rfl⟩

theorem Inv.of_takeWord (h : Inv s) (hq : s.seq = .idle) {w : Word} (ht : takeWord w s = .next t) : Inv t := by
  unfold takeWord at ht
  split at ht
  · rw [exec_eq_runOf] at ht
    cases ht
    exact h.runOf hq _
  · cases ht
    exact h.respond (by simp [frameOf, hq]) _ _

end

/-- Settles O54: reset, an idle cycle, a whole command (kept because its step list keeps the invariant), and an event of the step in
progress. -/
theorem stepKeepsInvariant : Obligations.StepKeepsInvariant := by
  intro s t h ht
  obtain ⟨ps, hps⟩ := takePort_eq s
  have h1 : Inv (takePort s).2 := hps ▸ h.withHost ps
  unfold step at ht
  simp only at ht
  split at ht
  · cases ht
    exact inv_applyReset _
  split at ht
  next hq =>
    rw [lowerRsp_eq_self (h1.rsp_eq_none (by simp [hq]))] at ht
    split at ht
    · cases ht
      exact h1
    · exact h1.of_takeWord hq ht
  next =>
    cases ht
    exact h1.seqTick

end Sys2Proof.Machine
end

section
/-! PROOFS of the family other, INIT (`42_calibration_loader.md` R160 to R167): its trace and its frame are read off the closed form
`execInit_eq`; a coefficient reads back as its two data bytes because the casts and the 32-bit view keep the low sixteen bits. -/

namespace Sys2Proof.Machine

/-! ## Trace and frame -/

/-- Settles O25: the load's events are those of LOAD_ORDER, row by row. -/
theorem initIssuesThirteenReads : Obligations.InitIssuesThirteenReads := by
  intro s
  refine ⟨_, execInit_eq s, ?_, rfl, rfl⟩
  simp [loadOrder, loadEvents, frameRead, RegFile.view32]

theorem loadSpi_released (es : List LoadEntry) (D : Nat → Draw) (sp : Spi) :
    (sp.csN = true → (loadSpi es D sp).csN = true) ∧ (sp.sclk = true → (loadSpi es D sp).sclk = true) := by
  rw [loadSpi_eq]
  split
  · exact ⟨fun _ => rfl, fun _ => rfl⟩
  · exact ⟨id, id⟩

/-- Settles O26: the load does not name UT, TEMP and PRESS, and leaves the released pins. -/
theorem initFrame : Obligations.InitFrame := by
  intro s
  obtain ⟨hcs, hclk⟩ := loadSpi_released (loadOrder s.params) (drawAt s) s.spi
  exact ⟨_, execInit_eq s, rfl, rfl, rfl, rfl, rfl, rfl, hcs, hclk⟩

/-! ## A coefficient after its read -/

/-- The low sixteen bits of the pattern of an integer are its pattern on sixteen bits. -/
theorem extractLsb'_ofInt (v : Int) : (BitVec.ofInt 32 v).extractLsb' 0 16 = BitVec.ofInt 16 v := by
  apply BitVec.eq_of_toNat_eq
  rw [BitVec.extractLsb'_toNat, BitVec.toNat_ofInt, BitVec.toNat_ofInt, Nat.shiftRight_zero]
  omega

/-- A cast to sixteen bits keeps the pattern (R13, R162). -/
theorem ofInt_cast {c : Cast} (hc : c ≠ .u8) (v : Int) : BitVec.ofInt 16 (c.apply v) = BitVec.ofInt 16 v := by
  apply BitVec.eq_of_toNat_eq
  rw [BitVec.toNat_ofInt, BitVec.toNat_ofInt]
  cases c with
  | u8 => exact absurd rfl hc
  | u16 => simp only [Cast.apply]; omega
  | s16 => simp only [Cast.apply, sext]; split <;> omega

/-- The low half of the 32-bit view of a register is the pattern of what it holds (R242). -/
theorem extractLsb'_view32 (x : RegFile) (r : Reg) : (x.view32 r).extractLsb' 0 16 = BitVec.ofInt 16 (x.read r) := by
  rw [← extractLsb'_ofInt, ← viewIsTheIntegerHeld x r, BitVec.ofInt_toInt]

/-- The value of a read that received `d0`, `d1` after the first byte (R141). -/
theorem Draw.value_of_two {d : Draw} {g d0 d1 : Byte} (h : d.reply 3 = [g, d0, d1]) : d.value 2 = (d0 ++ d1).toNat := by
  rw [toNat_append_byte]
  simp [Draw.value, Draw.full, h, bigEndian]

/-- The row of LOAD_ORDER of the `k`-th coefficient: two data bytes, a cast to sixteen bits (R161). -/
theorem exists_coefficient_row (p : Params) {k : Nat} {r : Reg}
    (h : [Reg.ac1, .ac2, .ac3, .ac4, .ac5, .ac6, .b1, .b2, .mb, .mc, .md][k]? = some r) :
    r.calibration = true ∧ ∃ a c, (loadOrder p)[k]? = some ⟨r, a, 2, c⟩ ∧ c ≠ .u8 := by
  have hrows : ∀ e ∈ (loadOrder p).take 11, e.reg.calibration = true ∧ e.n = 2 ∧ e.cast ≠ .u8 := by
    simp [loadOrder, Reg.calibration]
  obtain ⟨⟨_, a, n, c⟩, he, rfl⟩ : ∃ e, ((loadOrder p).take 11)[k]? = some e ∧ e.reg = r :=
    Option.map_eq_some_iff.mp ((List.getElem?_map ..).symm.trans h)
  obtain ⟨hcal, rfl, hc⟩ := hrows _ (List.mem_of_getElem? he)
  exact ⟨hcal, a, c, (List.getElem?_take_of_lt (by simpa using (List.getElem?_eq_some_iff.mp h).1)).symm.trans he, hc⟩

/-- Settles O27: GET answers the view of the coefficient, whose low half is the pattern of the value read. -/
theorem coefficientsRoundTrip : Obligations.CoefficientsRoundTrip := by
  intro s k r g d0 d1 hk hd
  obtain ⟨hcal, a, c, hrow, hc⟩ := exists_coefficient_row s.params hk
  obtain ⟨t, ht, hx, -⟩ := exec_init_regs s
  have hinitd : t.hasValue r = true := by
    rw [State.hasValue_of_calibration t hcal, State.flag, hx]
    exact statusGet_initRegs s .initd
  refine ⟨t, respond .ok (t.x.view32 r) t, t.x.view32 r, ht, ?_, rfl, ?_⟩
  · have hget : getRun r.num t = respond .ok (t.x.view32 r) t := by rw [getRun_eq_respond, getAnswer_num, hinitd, if_pos rfl]
    exact congrArg Host.Outcome.next hget
  · rw [extractLsb'_view32, hx, initRegs_read s ⟨a, hrow⟩, ofInt_cast hc, Draw.value_of_two hd, BitVec.ofInt_natCast,
      BitVec.ofNat_toNat, BitVec.setWidth_eq]

end Sys2Proof.Machine
end

section
/-! PROOFS of the family other, MEAST and MEASP (`43_measurement.md` R181 to R195): their bus activity and what they leave alone. MEAST
is phase T and an answer (`exec_meast`); MEASP is phase T and an answer, or phase T, the loop and `measpFinish`, which changes registers
alone (`measpFinish_eq_respondStatus`). -/

namespace Sys2Proof.Machine

/-- Settles O36: a byte is below 256, so the `or` on numbers needs no reduction. -/
theorem pressureCommandByte : Obligations.PressureCommandByte := by
  refine fun p => ⟨fun h => ?_, fun h => by rw [pressByte, h]; rfl⟩
  have hor : (pressByte p).toNat = p.pressCmd.toNat ||| (3 <<< 6) := by
    rw [pressByte, if_pos h, BitVec.toNat_or]
    rfl
  rw [← hor, Nat.mod_eq_of_lt (pressByte p).isLt]

/-! ## The start of a measurement -/

section
variable (s : State)

/-- The start of a measurement writes STATUS alone, so nothing below depends on it. -/
@[simp] theorem drawAt_meastStart : drawAt (meastStart s) = drawAt s := rfl
@[simp] theorem drawAt_measpStart : drawAt (measpStart s) = drawAt s := rfl
@[simp] theorem State.nsamp_meastStart : (meastStart s).nsamp = s.nsamp := by simp [meastStart]

theorem statusReserved_meastStart : statusReserved (meastStart s).x.status = statusReserved s.x.status := by simp [meastStart]

theorem statusReserved_measpStart : statusReserved (measpStart s).x.status = statusReserved s.x.status := by simp [measpStart]

end

/-! ## Phase T -/

/-- The events of a phase T from `s` (R182). -/
def eventsT (s : State) : List Event :=
  txnEvents [s.params.aCtrlMeasW, s.params.tempCmd, 0] (drawAt s 0) ++ [.evWait 4500] ++
    txnEvents [s.params.aDataR, 0, 0] (drawAt s 1)

section
variable (s : State)

theorem phaseT_trace : (phaseT s).2.trace = s.trace ++ eventsT s := by
  obtain ⟨-, -, -, -, -, -, -, htrace⟩ := phaseT_frame s
  exact htrace

theorem phaseT_env : (phaseT s).2.env = envAfter 2 s.env := by
  obtain ⟨-, -, -, -, -, henv, -⟩ := phaseT_frame s
  exact henv

theorem phaseT_params : (phaseT s).2.params = s.params := (phaseT_frame s).1

theorem phaseT_host : (phaseT s).2.host = s.host := by
  obtain ⟨-, -, -, -, hhost, -⟩ := phaseT_frame s
  exact hhost

theorem statusReserved_phaseT : statusReserved (phaseT s).2.x.status = statusReserved s.x.status := by
  have hT : statusReserved (regsT s).status = statusReserved s.x.status := by
    unfold regsT
    dsimp only
    split <;> simp
  rw [(phaseT_regs s).2]
  split <;> rw [statusReserved_set, hT]

theorem phaseT_released : (s.spi.csN = true → (phaseT s).2.spi.csN = true) ∧ (s.spi.sclk = true → (phaseT s).2.spi.sclk = true) := by
  obtain ⟨-, -, -, -, -, -, hspi, -⟩ := phaseT_frame s
  obtain ⟨hcs0, hclk0⟩ := txnSpi_released (drawAt s 0) s.spi
  obtain ⟨hcs1, hclk1⟩ := txnSpi_released (drawAt s 1) (txnSpi (drawAt s 0) s.spi)
  rw [hspi]
  exact ⟨hcs1 ∘ hcs0, hclk1 ∘ hclk0⟩

/-- Phase T leaves the other registers. -/
theorem phaseT_read {r : Reg} (hs : r ≠ .status) (hu : r ≠ .ut) (ht : r ≠ .temp) : (phaseT s).2.x.read r = s.x.read r := by
  obtain ⟨st, ut, temp, hx⟩ := phaseT_eq s
  rw [hx]
  cases r <;> first | rfl | contradiction

end

/-! ## MEAST -/

/-- Settles O30: the trace and the environment of phase T, then the answer. -/
theorem meastTrace : Obligations.MeastTrace := by
  intro s hi
  refine ⟨_, if (answerT s).isNone then .arith else .ok, exec_meast hi, ?_, ?_, phaseT_env _⟩
  · cases (answerT s).isNone
    · exact .inl rfl
    · exact .inr rfl
  · rw [respondStatus_trace, phaseT_trace]
    exact List.append_assoc s.trace ..

/-- Settles O31: the frame of phase T; its start writes UTSTALE and ARITH alone. -/
theorem meastFrame : Obligations.MeastFrame := by
  intro s hi
  obtain ⟨hcs, hclk⟩ := phaseT_released (meastStart s)
  refine ⟨_, exec_meast hi, fun r hs hu ht => ?_, fun f hf => ?_, ?_, ?_, ?_, ?_, phaseT_params _, phaseT_host _, rfl, hcs, hclk⟩
  · exact (phaseT_read _ hs hu ht).trans (RegFile.read_status s.x _ _ hs)
  · rw [State.flag_respondStatus, State.flag_phaseT]
    fin_cases hf <;> simp [State.flag_meastStart]
  · rw [State.flag_respondStatus, State.flag_phaseT]
    simp [State.flag_meastStart]
  · rw [State.flag_respondStatus, State.flag_phaseT]
    simp [State.flag_meastStart]
  · exact (State.nsamp_phaseT _).trans (State.nsamp_meastStart s)
  · exact (statusReserved_phaseT _).trans (statusReserved_meastStart s)

/-! ## MEASP -/

/-- The end of MEASP changes registers and answers with STATUS (R186, R191 to R193). -/
theorem measpFinish_eq_respondStatus (b5 : Rat) (samples : List Nat) (s : State) :
    ∃ c ∈ [Code.measFail, .arith, .ok], ∃ x, measpFinish b5 samples s = respondStatus c { s with x := x } := by
  by_cases h : samples.length = 0
  · exact ⟨.measFail, by simp, _, measpFinish_of_no_sample_eq s h⟩
  · cases hP : calcPOf s.x b5 (meanOf samples) with
    | none => exact ⟨.arith, by simp, _, measpFinish_of_fault_eq s h hP⟩
    | some P => exact ⟨.ok, by simp, _, measpFinish_of_pressure_eq s h hP⟩

/-- Beside registers and response port, the end of MEASP leaves what the loop left. -/
theorem measpFinish_frame (b5 : Rat) (samples : List Nat) (s : State) {t : State} (ht : measpFinish b5 samples s = t) :
    t.params = s.params ∧ t.host = s.host ∧ t.env = s.env ∧ t.spi = s.spi ∧ t.seq = .respond ∧
      ∃ c ∈ [Code.measFail, .arith, .ok], t.rsp = some ⟨c, t.x.status.setWidth 32⟩ ∧
        t.trace = s.trace ++ [.evRsp c (t.x.status.setWidth 32)] := by
  obtain ⟨c, hc, x, hx⟩ := measpFinish_eq_respondStatus b5 samples s
  rw [hx] at ht
  subst ht
  exact ⟨rfl, rfl, rfl, rfl, rfl, c, hc, rfl, rfl⟩

/-- The events of the `k`-th sample of a MEASP from `s` (R188). -/
def eventsP (s : State) (k : Nat) : List Event :=
  txnEvents [s.params.aCtrlMeasW, pressByte s.params, 0] (drawAt s (2 + 2 * k)) ++ [.evWait 25500] ++
    txnEvents [s.params.aDataR, 0, 0, 0] (drawAt s (3 + 2 * k))

section
variable (s : State)

theorem afterLoop_trace : (afterLoop s).trace = s.trace ++ (eventsT s ++ (eventsP s 0 ++ eventsP s 1 ++ eventsP s 2)) := by
  rw [afterLoop, samplesP_eq]
  simp only [phaseT_trace, phaseT_params, loopEvents, eventsP, Config.nSamples, drawAt_phaseT, drawAt_measpStart, List.append_nil,
    List.append_assoc]
  rfl

theorem afterLoop_env : (afterLoop s).env = envAfter 8 s.env := by
  rw [afterLoop, samplesP_eq]
  simp only [phaseT_env, envAfter_envAfter]
  rfl

end

/-- Settles O33: phase T, and with a temperature the loop, whose events are those of three samples. -/
theorem measpTrace : Obligations.MeaspTrace := by
  intro s hi
  rw [← answerT]
  cases h : answerT s with
  | none =>
    refine ⟨_, .arith, exec_measp_of_fault hi h, ?_, phaseT_env _⟩
    rw [respondStatus_trace, phaseT_trace]
    show s.trace ++ eventsT s ++ [_] = s.trace ++ (eventsT s ++ [] ++ [_])
    rw [List.append_nil, List.append_assoc]
    rfl
  | some r =>
    obtain ⟨b5, T⟩ := r
    obtain ⟨-, -, henv, -, -, c, -, -, htrace⟩ := measpFinish_frame b5 (recordedSamples s) (afterLoop s) rfl
    refine ⟨_, c, exec_measp_of_temperature hi h, ?_, henv.trans (afterLoop_env s)⟩
    rw [htrace, afterLoop_trace]
    exact List.append_assoc s.trace ..

/-! ### The frame -/

section
variable (s : State)

theorem loopSpi_released (n : Nat) (D : Nat → Draw) (sp : Spi) :
    (sp.csN = true → (loopSpi n D sp).csN = true) ∧ (sp.sclk = true → (loopSpi n D sp).sclk = true) := by
  induction n generalizing D sp with
  | zero => exact ⟨id, id⟩
  | succ n ih =>
    obtain ⟨hcs0, hclk0⟩ := txnSpi_released (D 0) sp
    obtain ⟨hcs1, hclk1⟩ := txnSpi_released (D 1) (txnSpi (D 0) sp)
    obtain ⟨hcs, hclk⟩ := ih (fun k => D (k + 2)) (txnSpi (D 1) (txnSpi (D 0) sp))
    exact ⟨hcs ∘ hcs1 ∘ hcs0, hclk ∘ hclk1 ∘ hclk0⟩

theorem afterLoop_released :
    (s.spi.csN = true → (afterLoop s).spi.csN = true) ∧ (s.spi.sclk = true → (afterLoop s).spi.sclk = true) := by
  obtain ⟨hcs, hclk⟩ := phaseT_released (measpStart s)
  obtain ⟨hcs', hclk'⟩ := loopSpi_released Config.nSamples (drawAt (phaseT (measpStart s)).2) (phaseT (measpStart s)).2.spi
  rw [afterLoop, samplesP_eq]
  exact ⟨hcs' ∘ hcs, hclk' ∘ hclk⟩

theorem afterLoop_params : (afterLoop s).params = s.params := by
  rw [afterLoop, samplesP_eq]
  exact phaseT_params _

theorem afterLoop_host : (afterLoop s).host = s.host := by
  rw [afterLoop, samplesP_eq]
  exact phaseT_host _

theorem statusReserved_afterLoop : statusReserved (afterLoop s).x.status = statusReserved s.x.status := by
  rw [afterLoop, samplesP_eq]
  exact (loopStatus_keeps statusReserved_txnStatus ..).trans ((statusReserved_phaseT _).trans (statusReserved_measpStart s))

/-- Phase T of a MEASP leaves the fields that INIT alone writes. -/
theorem flag_phaseT_measpStart {f : StatusField} (hf : f ∈ [StatusField.initd, .idwarn, .calerr]) :
    (phaseT (measpStart s)).2.flag f = s.flag f := by
  rw [State.flag_phaseT]
  fin_cases hf <;> simp [State.flag_measpStart]

/-- BUSUNAV and XFERERR gather what the eight transactions of a MEASP raise (R131). -/
theorem State.flag_afterLoop_transport :
    (afterLoop s).flag .busunav = (s.flag .busunav || (List.range 8).any fun k => !(drawAt s k).avail) ∧
    (afterLoop s).flag .xfererr = (s.flag .xfererr || (List.range 8).any fun k =>
      (drawAt s k).avail && !(drawAt s k).full (if k = 3 ∨ k = 5 ∨ k = 7 then 4 else 3)) := by
  have hdraws : drawAt (phaseT (measpStart s)).2 = fun k => drawAt s (2 + k) := funext (drawAt_phaseT _)
  have hloop (f : StatusField) : (afterLoop s).flag f =
      statusGet f (loopStatus 3 (fun k => drawAt s (2 + k)) (phaseT (measpStart s)).2.x.status) := by
    rw [afterLoop, samplesP_eq, hdraws]
    rfl
  have hT (f : StatusField) : statusGet f (phaseT (measpStart s)).2.x.status = (phaseT (measpStart s)).2.flag f := rfl
  constructor
  · simp [hloop, loopStatus, statusGet_txnStatus, hT, State.flag_phaseT, State.flag_measpStart, List.range_succ]
    ac_rfl
  · simp [hloop, loopStatus, statusGet_txnStatus, hT, State.flag_phaseT, State.flag_measpStart, List.range_succ]
    ac_rfl

end

/-- Settles O34: on a fault the frame of phase T; otherwise that of the loop, and the end of MEASP writes PRESS and STATUS fields that
the frame does not name. -/
theorem measpFrame : Obligations.MeaspFrame := by
  intro s hi
  rw [← answerT]
  cases h : answerT s with
  | none =>
    obtain ⟨hcs, hclk⟩ := phaseT_released (measpStart s)
    refine ⟨_, exec_measp_of_fault hi h, fun r hs hu ht _ => ?_, fun f hf => ?_, ⟨?_, ?_⟩, ?_, phaseT_params _, phaseT_host _, rfl,
      hcs, hclk⟩
    · exact (phaseT_read _ hs hu ht).trans (RegFile.read_status s.x _ _ hs)
    · exact flag_phaseT_measpStart s hf
    · rw [State.flag_respondStatus, State.flag_phaseT]
      simp [State.flag_measpStart, List.range_succ, Bool.or_assoc]
    · rw [State.flag_respondStatus, State.flag_phaseT]
      simp [State.flag_measpStart, List.range_succ, Bool.or_assoc]
    · exact (statusReserved_phaseT _).trans (statusReserved_measpStart s)
  | some r =>
    obtain ⟨b5, T⟩ := r
    simp only [Option.isNone_some, Bool.false_eq_true, if_false]
    obtain ⟨hcs, hclk⟩ := afterLoop_released s
    obtain ⟨hbusunav, hxfererr⟩ := State.flag_afterLoop_transport s
    have hreserved : statusReserved (measpFinish b5 (recordedSamples s) (afterLoop s)).x.status = statusReserved s.x.status := by
      obtain ⟨f, -, press, hx⟩ := measpFinish_x_eq (afterLoop s) b5 (recordedSamples s)
      rw [hx, statusReserved_set, statusReserved_setNsamp, statusReserved_afterLoop]
    have hflag {f : StatusField} (hf : f ∉ [StatusField.mfail, .arith, .pvalid]) :=
      State.flag_measpFinish (afterLoop s) hf b5 (recordedSamples s)
    obtain ⟨hparams, hhost, -, hspi, hseq, -⟩ := measpFinish_frame b5 (recordedSamples s) (afterLoop s) rfl
    refine ⟨_, exec_measp_of_temperature hi h, fun r hs hu ht hp => ?_, fun f hf => ?_, ⟨?_, ?_⟩, hreserved,
      hparams.trans (afterLoop_params s), hhost.trans (afterLoop_host s), hseq, by rwa [hspi], by rwa [hspi]⟩
    · rw [measpFinish_read _ hs hp, afterLoop_read hs]
      exact (phaseT_read _ hs hu ht).trans (RegFile.read_status s.x _ _ hs)
    · have hkept : (afterLoop s).flag f = s.flag f := by
        rw [State.flag_afterLoop (by fin_cases hf <;> decide) (by fin_cases hf <;> decide), flag_phaseT_measpStart s hf]
      exact (hflag (by fin_cases hf <;> decide)).trans hkept
    · exact (hflag (by decide)).trans hbusunav
    · exact (hflag (by decide)).trans hxfererr

end Sys2Proof.Machine
end

section
/-! PROOFS of the family other, `CALC_T` on integers and its magnitudes (`44_compensation.md` R211, R215). With `N1` and `D1` over the
common denominator `2^15` the exact `B5` is one fraction (`b5_eq_fraction`) and the temperature the floor of one quotient
(`temperatureOf_fraction`); the bounds are those of the arguments multiplied. -/

namespace Sys2Proof.Machine

/-! ## One fraction, one floor -/

/-- The floor of a quotient of integers, rounded toward minus infinity for either sign of the divisor (R211). -/
theorem floor_div_eq_ite (n : Int) {d : Int} (hd : d ≠ 0) :
    Int.floor ((n : Rat) / (d : Rat)) = if 0 < d then n / d else (-n) / (-d) := by
  split
  next h => exact floor_div_pos n d h
  next h =>
    rw [← floor_div_pos (-n) (-d) (by omega), Int.cast_neg, Int.cast_neg, neg_div_neg_eq]

section
variable (UT AC5 AC6 MC MD : Int) {N1 D1 : Int} (hN : N1 = (UT - AC6) * AC5) (hD : D1 = N1 + MD * 2 ^ 15)

/-- `B5` over one denominator (R211). -/
def fractionB5 (N1 D1 MC : Int) : Rat := ((N1 * D1 + MC * 2 ^ 41 : Int) : Rat) / ((2 ^ 15 * D1 : Int) : Rat)

/-- The numerator of the temperature (R211). -/
def numeratorT (N1 D1 MC : Int) : Int := N1 * D1 + MC * 2 ^ 41 + 2 ^ 18 * D1

/-- The temperature is the floor of one quotient (R211). -/
theorem temperatureOf_fractionB5 (h : D1 ≠ 0) : temperatureOf (fractionB5 N1 D1 MC) =
    Int.floor ((numeratorT N1 D1 MC : Rat) / ((2 ^ 19 * D1 : Int) : Rat)) := by
  have hD1 : (D1 : Rat) ≠ 0 := Int.cast_ne_zero.mpr h
  rw [temperatureOf, floor_eq, fractionB5, numeratorT]
  congr 1
  push_cast
  field_simp
  ring

include hN hD

/-- The divisor of `CALC_T` (R211, R213). -/
theorem divisor_eq : (((UT : Rat) - AC6) * AC5) / 2 ^ 15 + MD = (D1 : Rat) / 2 ^ 15 := by
  rw [calcT_divisor, hD, hN]

/-- The exact `B5` is one fraction (R211). -/
theorem b5_eq_fraction (h : D1 ≠ 0) :
    fractionB5 N1 D1 MC = ((UT : Rat) - AC6) * AC5 / 2 ^ 15 + (MC : Rat) * 2 ^ 11 / ((((UT : Rat) - AC6) * AC5) / 2 ^ 15 + MD) := by
  have hD1 : (D1 : Rat) ≠ 0 := Int.cast_ne_zero.mpr h
  have hN1 : ((UT : Rat) - AC6) * AC5 = N1 := by rw [hN]; push_cast; ring
  rw [divisor_eq UT AC5 AC6 MD hN hD, hN1, fractionB5]
  push_cast
  field_simp
  ring

/-- `CALC_T` on integers (R211, R213). -/
theorem calcT_eq_ite : calcT UT AC5 AC6 MC MD =
    if D1 = 0 then none
    else if fitsS32 (temperatureOf (fractionB5 N1 D1 MC)) then
      some (fractionB5 N1 D1 MC, temperatureOf (fractionB5 N1 D1 MC))
    else none := by
  have hzero : (((UT : Rat) - AC6) * AC5) / 2 ^ 15 + MD = 0 ↔ D1 = 0 := by
    rw [divisor_eq UT AC5 AC6 MD hN hD]
    simp
  split
  next h => exact calcT_of_divisor_zero rfl (hzero.mpr h)
  next h => exact calcT_of_divisor_ne_zero rfl (mt hzero.mp h) (b5_eq_fraction UT AC5 AC6 MC MD hN hD h)

end

/-- Settles O37: `calcT_eq_ite`, with the floor as an integer division. -/
theorem calcTOnIntegers : Obligations.CalcTOnIntegers := by
  intro UT AC5 AC6 MC MD N1 D1 num T
  rw [calcT_eq_ite UT AC5 AC6 MC MD (N1 := N1) (D1 := D1) rfl rfl]
  by_cases h : D1 = 0
  · simp [h]
  · have hT : temperatureOf (fractionB5 N1 D1 MC) = T := by
      have h19 : 2 ^ 19 * D1 ≠ 0 := by omega
      have hpos : 0 < 2 ^ 19 * D1 ↔ 0 < D1 := by omega
      rw [temperatureOf_fractionB5 _ h, floor_div_eq_ite _ h19]
      simp only [hpos]
      rfl
    simp only [h, hT, if_false, false_or, fitsS32_iff, ite_not]
    rfl

/-! ## Magnitudes -/

section
variable {UT AC5 AC6 MC MD N1 D1 : Int}

theorem abs_N1_le (hUT : 0 ≤ UT ∧ UT ≤ 65535) (h5 : 0 ≤ AC5 ∧ AC5 ≤ 65535) (h6 : 0 ≤ AC6 ∧ AC6 ≤ 65535) :
    |(UT - AC6) * AC5| ≤ 65535 * 65535 := by
  have hdiff : |UT - AC6| ≤ 65535 := abs_le.mpr ⟨by omega, by omega⟩
  have hac5 : |AC5| ≤ 65535 := abs_le.mpr ⟨by omega, by omega⟩
  rw [abs_mul]
  exact mul_le_mul hdiff hac5 (abs_nonneg _) (by decide)

theorem abs_mul_pow_le (h : -32768 ≤ MC ∧ MC ≤ 32767) (k : Nat) : |MC * 2 ^ k| ≤ 2 ^ 15 * 2 ^ k := by
  have hMC : |MC| ≤ 2 ^ 15 := abs_le.mpr ⟨by omega, by omega⟩
  rw [abs_mul, abs_of_pos (show (0 : Int) < 2 ^ k by positivity)]
  exact mul_le_mul_of_nonneg_right hMC (by positivity)

/-- `B5` stays within the sum of what its two terms can reach (R215): its denominator is at least one. -/
theorem abs_fractionB5_lt (hN : |N1| < 2 ^ 32) (hMC : |MC * 2 ^ 41| ≤ 2 ^ 56) (h : D1 ≠ 0) :
    |fractionB5 N1 D1 MC| < 2 ^ 17 + 2 ^ 41 := by
  have hD : 1 ≤ |D1| := Int.one_le_abs h
  have hprod : |N1 * D1| < 2 ^ 32 * |D1| := by
    rw [abs_mul]
    exact mul_lt_mul_of_pos_right hN (by omega)
  have hsum := abs_add_le (N1 * D1) (MC * 2 ^ 41)
  have hint : |N1 * D1 + MC * 2 ^ 41| < (2 ^ 17 + 2 ^ 41) * |2 ^ 15 * D1| := by
    rw [abs_mul, abs_of_pos (show (0 : Int) < 2 ^ 15 by decide)]
    omega
  have hpos : (0 : Rat) < |((2 ^ 15 * D1 : Int) : Rat)| := abs_pos.mpr (Int.cast_ne_zero.mpr (by omega))
  rw [fractionB5, abs_div, div_lt_iff₀ hpos]
  exact_mod_cast hint

theorem abs_temperatureOf_lt {b5 : Rat} (h : |b5| < 2 ^ 17 + 2 ^ 41) : |temperatureOf b5| < 2 ^ 38 := by
  obtain ⟨hlo, hhi⟩ := (temperatureOf_eq_iff b5 _).mp rfl
  obtain ⟨hneg, hpos⟩ := abs_lt.mp h
  have h1 : (-2 ^ 38 : Rat) < temperatureOf b5 := by linarith
  have h2 : (temperatureOf b5 : Rat) < 2 ^ 38 := by linarith
  exact abs_lt.mpr ⟨by exact_mod_cast h1, by exact_mod_cast h2⟩

end

/-- Settles O39: the bounds of the arguments multiplied (`abs_N1_le`, `abs_mul_pow_le`), then those of the fraction and its floor. -/
theorem calcTMagnitudes : Obligations.CalcTMagnitudes := by
  intro UT AC5 AC6 MC MD hUT h5 h6 hMC hMD N1 D1 num B5
  have hN : |N1| ≤ 65535 * 65535 := abs_N1_le hUT h5 h6
  have hMD' : |MD * 2 ^ 15| ≤ 2 ^ 15 * 2 ^ 15 := abs_mul_pow_le hMD 15
  have hMC' : |MC * 2 ^ 41| ≤ 2 ^ 15 * 2 ^ 41 := abs_mul_pow_le hMC 41
  have hD : |D1| ≤ 65535 * 65535 + 2 ^ 15 * 2 ^ 15 := (abs_add_le _ _).trans (by omega)
  have hND : |N1 * D1| < 2 ^ 65 := by
    rw [abs_mul]
    calc |N1| * |D1| ≤ (65535 * 65535) * (65535 * 65535 + 2 ^ 15 * 2 ^ 15) := mul_le_mul hN hD (abs_nonneg _) (by decide)
      _ < 2 ^ 65 := by decide
  have h18 : |2 ^ 18 * D1| = 2 ^ 18 * |D1| := by rw [abs_mul]; rfl
  have h19 : |2 ^ 19 * D1| = 2 ^ 19 * |D1| := by rw [abs_mul]; rfl
  have hnum : |num| ≤ |N1 * D1| + |MC * 2 ^ 41| + |2 ^ 18 * D1| :=
    (abs_add_le _ _).trans (by have := abs_add_le (N1 * D1) (MC * 2 ^ 41); omega)
  have hb5 (h : D1 ≠ 0) : |fractionB5 N1 D1 MC| < 2 ^ 17 + 2 ^ 41 := abs_fractionB5_lt (by omega) (by omega) h
  have hcalc := calcT_eq_ite UT AC5 AC6 MC MD (N1 := N1) (D1 := D1) rfl rfl
  refine ⟨by omega, by omega, hND, by omega, by omega, by omega, fun b5 T hsome => ?_, fun hnone => ?_⟩
  · by_cases h : D1 = 0
    · rw [hcalc, if_pos h] at hsome
      cases hsome
    rw [hcalc, if_neg h, Option.ite_none_right_eq_some, Option.some.injEq, Prod.mk.injEq] at hsome
    obtain ⟨-, rfl, rfl⟩ := hsome
    exact ⟨h, rfl, hb5 h, temperatureOf_fractionB5 MC h, abs_temperatureOf_lt (hb5 h)⟩
  · by_cases h : D1 = 0
    · exact .inl h
    rw [hcalc, if_neg h, ite_eq_right_iff] at hnone
    have hrange : temperatureOf B5 < -2 ^ 31 ∨ temperatureOf B5 > 2 ^ 31 - 1 :=
      by_contra fun hr => nomatch hnone ((fitsS32_iff _).mpr hr)
    refine .inr ⟨hb5 h, temperatureOf_fractionB5 MC h, ?_, abs_temperatureOf_lt (hb5 h)⟩
    rw [le_abs]
    omega

/-- Settles O41: both pipelines evaluated. -/
theorem compensationInstances : Obligations.CompensationInstances := by
  refine ⟨?_, ?_, ?_, ?_, ?_, ?_⟩ <;> decide +kernel

end Sys2Proof.Machine
end

section
/-! PROOFS of the family other, what holds of every command: its answer and its bus activity (`30_encoding.md` R104, `43_measurement.md`
R195, `60_exceptions.md` R251). `exec_answersWith` says once, for each command, which code it can answer, after how many transactions and
which waits; a bus log (`BusLog`) is whole sessions and waits, one after the other. -/

namespace Sys2Proof.Machine

/-! ## Bus logs -/

/-- `es` is `n` transactions and the waits `ws`, one after the other (R120, R262). -/
inductive BusLog : List Event → Nat → List Nat → Prop where
  | nil : BusLog [] 0 []
  | txn {es : List Event} {n : Nat} {ws : List Nat} (out : List Byte) (d : Draw) :
    BusLog es n ws → BusLog (txnEvents out d ++ es) (n + 1) ws
  | wait {es : List Event} {n : Nat} {ws : List Nat} (us : Nat) : BusLog es n ws → BusLog (.evWait us :: es) n (us :: ws)

section
variable {es fs : List Event} {n m : Nat} {ws vs : List Nat}

theorem BusLog.append (h : BusLog es n ws) (h' : BusLog fs m vs) : BusLog (es ++ fs) (n + m) (ws ++ vs) := by
  induction h with
  | nil => simpa using h'
  | txn out d _ ih =>
    rw [List.append_assoc, Nat.add_right_comm]
    exact .txn out d ih
  | wait us _ ih => exact .wait us ih

theorem busLog_txnEvents (out : List Byte) (d : Draw) : BusLog (txnEvents out d) 1 [] := by
  simpa using BusLog.nil.txn out d

theorem Draw.reply_length_le (N : Nat) (d : Draw) : (d.reply N).length ≤ N := by
  unfold Draw.reply
  split <;> simp

theorem BusLog.sessionsShape (h : BusLog es n ws) : Machine.sessionsShape es = true := by
  induction h with
  | nil => rfl
  | txn out d _ ih =>
    unfold txnEvents
    split
    · simp [Machine.sessionsShape, Draw.reply_length_le, ih]
    · exact ih
  | wait us _ ih => exact ih

theorem BusLog.rspCount (h : BusLog es n ws) : Machine.rspCount es = 0 := by
  induction h with
  | nil => rfl
  | txn out d _ ih =>
    rw [rspCount_append, ih]
    unfold txnEvents
    split <;> rfl
  | wait us _ ih => exact ih

theorem BusLog.openCount (h : BusLog es n ws) : Machine.openCount es = n := by
  induction h with
  | nil => rfl
  | txn out d _ ih =>
    have happ : Machine.openCount (txnEvents out d) = 1 := by unfold txnEvents; split <;> rfl
    rw [Machine.openCount, List.countP_append, ← Machine.openCount, ← Machine.openCount, ih, happ, Nat.add_comm]
  | wait us _ ih => exact ih

theorem BusLog.waitsOf (h : BusLog es n ws) : Machine.waitsOf es = ws := by
  induction h with
  | nil => rfl
  | txn out d _ ih =>
    have hnone : Machine.waitsOf (txnEvents out d) = [] := by unfold txnEvents; split <;> rfl
    rw [Machine.waitsOf, List.filterMap_append, ← Machine.waitsOf, ← Machine.waitsOf, ih, hnone, List.nil_append]
  | wait us _ ih => exact congrArg (us :: ·) ih

end

/-! ## The logs of the commands -/

theorem busLog_loadEvents (es : List LoadEntry) (D : Nat → Draw) : BusLog (loadEvents es D) es.length [] := by
  induction es generalizing D with
  | nil => exact .nil
  | cons e es ih => exact (ih _).txn ..

section
variable (s : State)

theorem busLog_eventsT : BusLog (eventsT s) 2 [4500] :=
  ((busLog_txnEvents ..).append (BusLog.nil.wait 4500)).append (busLog_txnEvents ..)

theorem busLog_eventsP (k : Nat) : BusLog (eventsP s k) 2 [25500] :=
  ((busLog_txnEvents ..).append (BusLog.nil.wait 25500)).append (busLog_txnEvents ..)

/-- `t` is in the cycle of the response `c` to a command taken in `s`, after the bus activity `evs`. -/
def AnswersWith (evs : List Event) (c : Code) (t : State) : Prop :=
  t.seq = .respond ∧ t.host = s.host ∧ ∃ v, t.rsp = some ⟨c, v⟩ ∧ t.trace = s.trace ++ evs ++ [.evRsp c v]

/-- What a command can answer, and after how many transactions and which waits (R195, R251). -/
def Allowed (c : Code) (n : Nat) (ws : List Nat) : Instr → Prop
  | .init => c = .ok ∧ n = 13 ∧ ws = []
  | .meast => if s.flag .initd then (c = .ok ∨ c = .arith) ∧ n = 2 ∧ ws = [4500] else c = .notInit ∧ n = 0 ∧ ws = []
  | .measp =>
    if s.flag .initd then
      (c ∈ [Code.measFail, .arith, .ok] ∧ n = 8 ∧ ws = [4500, 25500, 25500, 25500]) ∨ (c = .arith ∧ n = 2 ∧ ws = [4500])
    else c = .notInit ∧ n = 0 ∧ ws = []
  | .get _ => c ∈ [Code.badReg, .ok, .noValue] ∧ n = 0 ∧ ws = []
  | .rdb _ | .rdw _ | .rdt _ | .wrr _ _ => (c = .ok ∨ c = .xferFail) ∧ n = 1 ∧ ws = []

variable {s}

theorem answersWith_respond {u : State} {evs : List Event} (hh : u.host = s.host) (ht : u.trace = s.trace ++ evs) (c : Code) (v : Word) :
    AnswersWith s evs c (respond c v u) := ⟨rfl, hh, v, rfl, by rw [respond_trace, ht]⟩

theorem exec_refused {i : Instr} (hi : i = .meast ∨ i = .measp) (h : s.flag .initd = false) :
    exec i s = .next (refuse .notInit s) := by
  rcases hi with rfl | rfl
  · simp [exec, execMeast, meastRun, h]
  · simp [exec, execMeasp, measpRun, h]

/-- The register commands are one transaction and an answer (R142 to R146). -/
theorem exists_answersWith_of_transaction {i : Instr}
    (hi : ∀ c n ws, Allowed s c n ws i = ((c = .ok ∨ c = .xferFail) ∧ n = 1 ∧ ws = [])) {out : List Byte} {full : Bool} {r : Word}
    (h : ∃ t, exec i s = .next t ∧ AnswersAfterTransaction out (if full then .ok else .xferFail) r s t) :
    ∃ t evs c n ws, exec i s = .next t ∧ AnswersWith s evs c t ∧ BusLog evs n ws ∧ Allowed s c n ws i := by
  obtain ⟨t, ht, hrsp, htrace, -, -, hseq, -, hhost, -⟩ := h
  refine ⟨t, _, _, 1, [], ht, ⟨hseq, hhost, r, hrsp, htrace⟩, busLog_txnEvents .., ?_⟩
  rw [hi]
  cases full <;> simp

variable (s)

/-- Every command answers once, after whole sessions and waits (R104, R195, R251). -/
theorem exec_answersWith (i : Instr) : ∃ t evs c n ws,
    exec i s = .next t ∧ AnswersWith s evs c t ∧ BusLog evs n ws ∧ Allowed s c n ws i := by
  cases i with
  | init =>
    exact ⟨_, _, .ok, 13, [], execInit_eq s, ⟨rfl, rfl, _, rfl, rfl⟩, busLog_loadEvents (loadOrder s.params) (drawAt s),
      rfl, rfl, rfl⟩
  | meast =>
    cases hi : s.flag .initd with
    | false =>
      exact ⟨_, [], .notInit, 0, [], exec_refused (.inl rfl) hi, answersWith_respond rfl (by simp) .., .nil, by simp [Allowed, hi]⟩
    | true =>
      refine ⟨_, _, _, 2, [4500], exec_meast hi, answersWith_respond (phaseT_host _) (phaseT_trace _) .., busLog_eventsT _, ?_⟩
      simp only [Allowed, hi, if_true, and_true]
      cases (answerT s).isNone <;> simp
  | measp =>
    cases hi : s.flag .initd with
    | false =>
      exact ⟨_, [], .notInit, 0, [], exec_refused (.inr rfl) hi, answersWith_respond rfl (by simp) .., .nil, by simp [Allowed, hi]⟩
    | true =>
      simp only [Allowed, hi, if_true]
      cases h : answerT s with
      | none =>
        exact ⟨_, _, .arith, 2, [4500], exec_measp_of_fault hi h, answersWith_respond (phaseT_host _) (phaseT_trace _) ..,
          busLog_eventsT _, .inr ⟨rfl, rfl, rfl⟩⟩
      | some r =>
        obtain ⟨b5, T⟩ := r
        obtain ⟨-, hhost, -, -, hseq, c, hc, hrsp, htrace⟩ := measpFinish_frame b5 (recordedSamples s) (afterLoop s) rfl
        rw [afterLoop_trace] at htrace
        refine ⟨_, _, c, 8, _, exec_measp_of_temperature hi h, ⟨hseq, hhost.trans (afterLoop_host s), _, hrsp, htrace⟩, ?_,
          .inl ⟨hc, rfl, rfl⟩⟩
        exact (busLog_eventsT s).append (((busLog_eventsP s 0).append (busLog_eventsP s 1)).append (busLog_eventsP s 2))
  | get r =>
    refine ⟨_, [], (getAnswer r s).1, 0, [], congrArg Host.Outcome.next (getRun_eq_respond s r),
      answersWith_respond rfl (by simp) .., .nil, ?_, rfl, rfl⟩
    unfold getAnswer
    split
    · simp
    · split <;> simp
  | rdb a => exact exists_answersWith_of_transaction (fun _ _ _ => rfl) (rdbReadsOneByte a s)
  | rdw a => exact exists_answersWith_of_transaction (fun _ _ _ => rfl) (rdwReadsTwoBytes a s)
  | rdt a => exact exists_answersWith_of_transaction (fun _ _ _ => rfl) (rdtReadsThreeBytes a s)
  | wrr a d => exact exists_answersWith_of_transaction (fun _ _ _ => rfl) (wrrWritesOneByte a d s)

end

/-! ## The obligations on answers and bus activity -/

/-- Settles O6: a word taken is its command (`step_idle_offered`), which answers. -/
theorem stepRunsDecodedCommand : Obligations.StepRunsDecodedCommand := by
  intro s w rest i hs hh hd
  have hstep : step s = exec i { s with host := rest, rsp := none } := by
    rw [step_idle_offered hs hh, takeWord, hd]
    rfl
  obtain ⟨t, evs, c, n, ws, ht, ⟨hseq, hhost, v, hrsp, -⟩, -⟩ := exec_answersWith { s with host := rest, rsp := none } i
  exact ⟨hstep, t, hstep.trans ht, hseq, by rw [hrsp]; rfl, hhost⟩

/-- Settles O47: a command, a refusal and an event all give a next state. -/
theorem noStepStops : Obligations.NoStepStops := by
  intro s
  unfold Safe step
  simp only
  split
  · exact ⟨_, rfl⟩
  split
  · split
    · exact ⟨_, rfl⟩
    · unfold takeWord
      split
      · exact ⟨_, exec_eq_runOf ..⟩
      · exact ⟨_, rfl⟩
  · exact ⟨_, rfl⟩

/-- Settles O44: the bus log of the command is whole sessions and waits; the event after the response is `endResponse`. -/
theorem everyCommandEndsInOneResponse : Obligations.EveryCommandEndsInOneResponse := by
  intro i s
  obtain ⟨t, evs, c, n, ws, ht, ⟨hseq, -, v, hrsp, htrace⟩, hlog, -⟩ := exec_answersWith s i
  refine ⟨t, evs, c, v, ht, htrace, hrsp, hlog.sessionsShape, hlog.rspCount, by simp [State.cmdReady, hseq], ?_⟩
  rw [seqTick_respond hseq]
  exact ⟨rfl, rfl⟩

/-- Settles O45: the codes of `Allowed`, by their numbers. -/
theorem responseCodesPerCommand : Obligations.ResponseCodesPerCommand := by
  intro i s
  obtain ⟨t, evs, c, n, ws, ht, ⟨-, -, v, hrsp, -⟩, -, hallowed⟩ := exec_answersWith s i
  refine ⟨t, c, v, ht, hrsp, ?_⟩
  cases i with
  | init =>
    obtain ⟨rfl, -⟩ := hallowed
    rfl
  | meast =>
    simp only [Allowed] at hallowed
    split at hallowed
    · obtain ⟨rfl | rfl, -⟩ := hallowed <;> simp [Code.bits]
    · obtain ⟨rfl, -⟩ := hallowed
      simp [Code.bits]
  | measp =>
    simp only [Allowed] at hallowed
    split at hallowed
    · obtain ⟨hc, -⟩ | ⟨rfl, -⟩ := hallowed
      · fin_cases hc <;> simp [Code.bits]
      · simp [Code.bits]
    · obtain ⟨rfl, -⟩ := hallowed
      simp [Code.bits]
  | get =>
    obtain ⟨hc, -⟩ := hallowed
    fin_cases hc <;> simp [Code.bits]
  | rdb | rdw | rdt | wrr => obtain ⟨rfl | rfl, -⟩ := hallowed <;> simp [Code.bits]

/-- Settles O46: the transactions and the waits of the bus log are those of `Allowed`. -/
theorem busActivityPerCommand : Obligations.BusActivityPerCommand := by
  intro i s t evs ht htrace
  obtain ⟨t', evs', c, n, ws, ht', ⟨-, -, v, hrsp, htrace'⟩, hlog, hallowed⟩ := exec_answersWith s i
  obtain rfl : t' = t := Host.Outcome.next.inj (ht'.symm.trans ht)
  obtain rfl : evs = evs' ++ [.evRsp c v] := by
    rw [htrace', List.append_assoc] at htrace
    exact (List.append_cancel_left htrace).symm
  have hopen : openCount (evs' ++ [.evRsp c v]) = n := by
    rw [openCount, List.countP_append, ← openCount, hlog.openCount]
    rfl
  have hwaits : waitsOf (evs' ++ [.evRsp c v]) = ws := by
    rw [waitsOf, List.filterMap_append, ← waitsOf, hlog.waitsOf]
    exact List.append_nil _
  rw [hopen, hwaits]
  cases i with
  | init | get | rdb | rdw | rdt | wrr =>
    obtain ⟨-, hn, hws⟩ := hallowed
    exact ⟨hn, hws⟩
  | meast =>
    simp only [Allowed] at hallowed ⊢
    split at hallowed
    next hi => rw [if_pos hi]; exact hallowed.2
    next hi => rw [if_neg hi]; exact hallowed.2
  | measp =>
    simp only [Allowed] at hallowed ⊢
    split at hallowed
    next hi =>
      rw [if_pos hi]
      obtain ⟨-, h⟩ | ⟨rfl, hn, hws⟩ := hallowed
      · exact .inl h
      · exact .inr ⟨hn, hws, v, hrsp⟩
    next hi => rw [if_neg hi]; exact hallowed.2

end Sys2Proof.Machine
end

section
/-! PROOFS of the family other, what no command and no event changes: the calibration and the readings (`10_state.md` R22 to R25, R36),
and the sticky fields of STATUS (R31). `writtenBy` lists the registers a command may write. Nothing that writes STATUS clears a sticky
field (`KeepsSticky`), in a whole command and in an event alike. -/

namespace Sys2Proof.Machine

/-! ## The registers a command writes -/

/-- The registers a command may write (R22 to R25, R36). -/
def writtenBy : Instr → Reg → Bool
  | .init, r => r == .status || r.calibration
  | .meast, r => r == .status || r == .ut || r == .temp
  | .measp, r => r == .status || r == .ut || r == .temp || r == .press
  | _, r => r == .status

section
variable {s : State}

/-- A transaction writes STATUS alone (R131). -/
theorem txn_read (out : List Byte) {r : Reg} (hr : r ≠ .status) : (txn out s).2.x.read r = s.x.read r := by
  rw [txn_eq]
  exact RegFile.read_status _ _ _ hr

theorem respondRead_x (v : Int) (s : State) : (respondRead v s).x = s.x := by
  unfold respondRead
  split <;> rfl

theorem respondWrite_x (ok : Bool) (s : State) : (respondWrite ok s).x = s.x := by
  unfold respondWrite
  split <;> rfl

theorem getRun_x (r : Byte) (s : State) : (getRun r s).x = s.x := by rw [getRun_eq_respond]; rfl

theorem loadOrder_reg_calibration (p : Params) : ∀ e ∈ loadOrder p, e.reg.calibration = true := by
  simp [loadOrder, Reg.calibration]

/-- A command leaves the registers it does not write. -/
theorem exec_read_of_not_written {i : Instr} {t : State} (ht : exec i s = .next t) {r : Reg} (hr : writtenBy i r = false) :
    t.x.read r = s.x.read r := by
  have hstatus : r ≠ .status := by
    rintro rfl
    cases i <;> simp [writtenBy] at hr
  cases i with
  | init =>
    obtain ⟨t', ht', hx, -⟩ := exec_init_regs s
    obtain rfl : t' = t := Host.Outcome.next.inj (ht'.symm.trans ht)
    have hcal : r.calibration = false := by simpa [writtenBy, hstatus] using hr
    rw [hx]
    refine (RegFile.read_status _ _ _ hstatus).trans ((loadRegs_read _ _ _ r hstatus fun e he heq => ?_).trans
      (RegFile.read_status s.x _ _ hstatus))
    have := loadOrder_reg_calibration s.params e he
    rw [heq, hcal] at this
    cases this
  | meast =>
    have hne : r ≠ .ut ∧ r ≠ .temp := by simpa [writtenBy, hstatus] using hr
    cases hi : s.flag .initd with
    | false => cases (exec_refused (.inl rfl) hi).symm.trans ht; rfl
    | true =>
      cases (exec_meast hi).symm.trans ht
      exact (phaseT_read _ hstatus hne.1 hne.2).trans (RegFile.read_status s.x _ _ hstatus)
  | measp =>
    have hne : (r ≠ .ut ∧ r ≠ .temp) ∧ r ≠ .press := by simpa [writtenBy, hstatus, and_assoc] using hr
    cases hi : s.flag .initd with
    | false => cases (exec_refused (.inr rfl) hi).symm.trans ht; rfl
    | true =>
      have hT : (phaseT (measpStart s)).2.x.read r = s.x.read r :=
        (phaseT_read _ hstatus hne.1.1 hne.1.2).trans (RegFile.read_status s.x _ _ hstatus)
      cases h : answerT s with
      | none => cases (exec_measp_of_fault hi h).symm.trans ht; exact hT
      | some a =>
        cases (exec_measp_of_temperature hi h).symm.trans ht
        rw [measpFinish_read _ hstatus hne.2, afterLoop_read hstatus, hT]
  | get n => cases ht; rw [getRun_x]
  | rdb | rdw | rdt => cases ht; rw [respondRead_x]; exact txn_read _ hstatus
  | wrr => cases ht; rw [respondWrite_x]; exact txn_read _ hstatus

end

theorem not_written_calibration {i : Instr} (hi : i ≠ .init) {r : Reg} (hr : r.calibration = true) : writtenBy i r = false := by
  cases i
  case init => exact absurd rfl hi
  all_goals cases r <;> first | rfl | cases hr

theorem not_written_temperature {i : Instr} (h1 : i ≠ .meast) (h2 : i ≠ .measp) :
    writtenBy i .ut = false ∧ writtenBy i .temp = false := by
  cases i
  case meast | measp => contradiction
  all_goals exact ⟨rfl, rfl⟩

theorem not_written_pressure {i : Instr} (h : i ≠ .measp) : writtenBy i .press = false := by
  cases i
  case measp => contradiction
  all_goals rfl

/-- Settles O48: beside INIT no command writes a register of the calibration. -/
theorem onlyInitWritesCalibration : Obligations.OnlyInitWritesCalibration := fun _ _ _ _ hi ht hr =>
  exec_read_of_not_written ht (not_written_calibration hi hr)

/-- Settles O49: beside MEAST and MEASP no command writes UT or TEMP, beside MEASP none writes PRESS; a register that reads the same is
the same. -/
theorem onlyMeasurementsWriteReadings : Obligations.OnlyMeasurementsWriteReadings := by
  refine fun i s t ht => ⟨fun h1 h2 => ?_, fun h => ?_⟩
  · obtain ⟨hut, htemp⟩ := not_written_temperature h1 h2
    have h : (t.x.ut.toNat : Int) = s.x.ut.toNat := exec_read_of_not_written ht hut
    exact ⟨BitVec.eq_of_toNat_eq (Int.ofNat.inj h), BitVec.eq_of_toInt_eq (exec_read_of_not_written ht htemp)⟩
  · exact BitVec.eq_of_toInt_eq (exec_read_of_not_written ht (not_written_pressure h))

/-! ## Sticky fields -/

/-- No sticky field that is set in `st` is clear in `st'` (R31). -/
structure KeepsSticky (st st' : Half) : Prop where
  get : ∀ f : StatusField, f.sticky = true → statusGet f st = true → statusGet f st' = true

section
variable {st st' st'' : Half}

theorem KeepsSticky.refl (st : Half) : KeepsSticky st st := ⟨fun _ _ h => h⟩

theorem KeepsSticky.of_eq (h : st' = st) : KeepsSticky st st' := h ▸ .refl st

theorem KeepsSticky.trans (h : KeepsSticky st st') (h' : KeepsSticky st' st'') : KeepsSticky st st'' :=
  ⟨fun f hs hf => h'.get f hs (h.get f hs hf)⟩

/-- A field may be set, and one that is not sticky may be cleared. -/
theorem keepsSticky_set {f : StatusField} {b : Bool} (hf : b = true ∨ f.sticky = false) (st : Half) :
    KeepsSticky st (statusSet f b st) := by
  refine ⟨fun g hs hg => ?_⟩
  rw [statusGet_set]
  split
  next e =>
    rcases hf with hb | hn
    · exact hb
    · rw [e, hn] at hs
      cases hs
  next => exact hg

theorem keepsSticky_nsampSet (n : Nat) (st : Half) : KeepsSticky st (nsampSet n st) :=
  ⟨fun f _ hf => (statusGet_setNsamp f n st).trans hf⟩

theorem keepsSticky_txnStatus (N : Nat) (d : Draw) (st : Half) : KeepsSticky st (txnStatus N d st) :=
  ⟨fun f _ hf => by rw [statusGet_txnStatus, hf, Bool.or_true]⟩

theorem keepsSticky_loopStatus (n : Nat) (D : Nat → Draw) (st : Half) : KeepsSticky st (loopStatus n D st) := by
  induction n generalizing D st with
  | zero => exact .refl st
  | succ n ih => exact ((keepsSticky_txnStatus ..).trans (keepsSticky_txnStatus ..)).trans (ih ..)

theorem keepsSticky_loadRegs (es : List LoadEntry) (hes : ∀ e ∈ es, e.reg ≠ .status) (D : Nat → Draw) (x : RegFile) :
    KeepsSticky x.status (loadRegs es D x).status := by
  induction es generalizing D x with
  | nil => exact .refl _
  | cons e es ih =>
    rw [loadRegs_status e es D x (hes e (.head _))]
    refine KeepsSticky.trans ?_ (ih (fun e' h => hes e' (.tail _ h)) ..)
    exact keepsSticky_txnStatus ..

theorem keepsSticky_initStatus (err : Bool) (x : RegFile) : KeepsSticky x.status (initStatus err x) :=
  ⟨fun f _ hf => by rw [statusGet_initStatus, hf, Bool.or_true]⟩

end

section
variable (s : State)

theorem keepsSticky_setFlag (f : StatusField) {b : Bool} (hf : b = true ∨ f.sticky = false) :
    KeepsSticky s.x.status (s.setFlag f b).x.status := keepsSticky_set hf _

theorem keepsSticky_initStart : KeepsSticky s.x.status (initStart s).x.status :=
  (keepsSticky_setFlag s .idwarn (.inr rfl)).trans (keepsSticky_setFlag _ .calerr (.inr rfl))

theorem keepsSticky_meastStart : KeepsSticky s.x.status (meastStart s).x.status :=
  (keepsSticky_setFlag s .utstale (.inr rfl)).trans (keepsSticky_setFlag _ .arith (.inr rfl))

theorem keepsSticky_measpStart : KeepsSticky s.x.status (measpStart s).x.status :=
  ((keepsSticky_meastStart s).trans (keepsSticky_setFlag _ .mfail (.inr rfl))).trans (keepsSticky_nsampSet 0 _)

/-- The arithmetic of phase T (R182, R183, R185). -/
theorem keepsSticky_compensateT_storeUt (w : Bool) (v : Int) :
    KeepsSticky s.x.status (compensateT (storeUt w v s)).2.x.status := by
  have hu : KeepsSticky s.x.status (storeUt w v s).x.status := by
    obtain e | e := storeUt_status w v s <;> rw [e]
    · exact .refl _
    · exact keepsSticky_set (.inl rfl) _
  refine hu.trans ?_
  obtain ⟨-, e⟩ | ⟨-, e⟩ := compensateT_status (storeUt w v s) <;> rw [e] <;> exact keepsSticky_set (.inl rfl) _

theorem keepsSticky_phaseT : KeepsSticky s.x.status (phaseT s).2.x.status := by
  have h : KeepsSticky s.x.status (sampleT s).2.2.x.status := by
    rw [sampleT_eq]
    exact (keepsSticky_txnStatus ..).trans (keepsSticky_txnStatus ..)
  exact h.trans (keepsSticky_compensateT_storeUt ..)

theorem keepsSticky_afterLoop : KeepsSticky s.x.status (afterLoop s).x.status := by
  rw [afterLoop, samplesP_eq]
  exact ((keepsSticky_measpStart s).trans (keepsSticky_phaseT _)).trans (keepsSticky_loopStatus ..)

theorem keepsSticky_initFinish (err : Bool) : KeepsSticky s.x.status (initFinish err s).x.status := by
  rw [initFinish_eq]
  exact keepsSticky_initStatus ..

theorem keepsSticky_meastFinish (r : Option Rat) : KeepsSticky s.x.status (meastFinish r s).x.status := by
  cases r <;> exact .refl _

theorem keepsSticky_measpFinish (b5 : Rat) (samples : List Nat) : KeepsSticky s.x.status (measpFinish b5 samples s).x.status := by
  obtain ⟨f, -, press, hx⟩ := measpFinish_x_eq s b5 samples
  rw [hx]
  exact (keepsSticky_nsampSet ..).trans (keepsSticky_set (.inl rfl) _)

theorem keepsSticky_txn (out : List Byte) : KeepsSticky s.x.status (txn out s).2.x.status := by
  rw [txn_eq]
  exact keepsSticky_txnStatus ..

/-- A whole command (R31). -/
theorem keepsSticky_exec {i : Instr} {s t : State} (ht : exec i s = .next t) : KeepsSticky s.x.status t.x.status := by
  cases i with
  | init =>
    cases (execInit_eq s).symm.trans ht
    exact (keepsSticky_initStart s).trans ((keepsSticky_loadRegs _ (loadOrder_reg_ne_status _) ..).trans (keepsSticky_initStatus ..))
  | meast =>
    cases hi : s.flag .initd with
    | false => cases (exec_refused (.inl rfl) hi).symm.trans ht; exact .refl _
    | true => cases (exec_meast hi).symm.trans ht; exact (keepsSticky_meastStart s).trans (keepsSticky_phaseT _)
  | measp =>
    cases hi : s.flag .initd with
    | false => cases (exec_refused (.inr rfl) hi).symm.trans ht; exact .refl _
    | true =>
      cases h : answerT s with
      | none => cases (exec_measp_of_fault hi h).symm.trans ht; exact (keepsSticky_measpStart s).trans (keepsSticky_phaseT _)
      | some a =>
        cases (exec_measp_of_temperature hi h).symm.trans ht
        exact (keepsSticky_afterLoop s).trans (keepsSticky_measpFinish ..)
  | get => cases ht; rw [getRun_x]; exact .refl _
  | rdb | rdw | rdt => cases ht; rw [respondRead_x]; exact keepsSticky_txn ..
  | wrr => cases ht; rw [respondWrite_x]; exact keepsSticky_txn ..

/-! ### Events -/

theorem keepsSticky_endXfer (out : List Byte) : KeepsSticky s.x.status (endXfer out s).x.status := by
  rw [endXfer_eq_status]
  simp only
  split
  · exact keepsSticky_set (.inl rfl) _
  · exact .refl _

variable {s} in
theorem KeepsSticky.afterTxn {st : Half} (h : KeepsSticky st s.x.status) (r : Nat × List Byte) :
    KeepsSticky st (Machine.afterTxn r s).x.status := by
  obtain ⟨-, -, -, -, hstatus⟩ := afterTxn_frame r s
  exact h.trans (.of_eq hstatus)

theorem keepsSticky_txnTick (out : List Byte) : KeepsSticky s.x.status (txnTick out s).x.status := by
  unfold txnTick
  cases s.work.phase with
  | closed =>
    simp only [takeDraw_eq]
    split
    · exact .refl _
    · exact KeepsSticky.afterTxn (keepsSticky_set (f := .busunav) (.inl rfl) _) _
  | gap =>
    simp only
    split
    · exact .refl _
    · exact keepsSticky_endXfer s out
  | fall => exact .refl _
  | rise =>
    simp only
    split <;> exact .refl _
  | closing =>
    refine KeepsSticky.afterTxn ?_ _
    exact .refl _

theorem keepsSticky_stepT3 : KeepsSticky s.x.status (stepT3 s).x.status := by
  have h := keepsSticky_compensateT_storeUt s s.work.wok s.work.rd
  unfold stepT3
  simp only
  split
  · split <;> exact h
  · exact h.trans (keepsSticky_meastFinish ..)

theorem keepsSticky_waitTick (us : Nat) (q : Seq) : KeepsSticky s.x.status (waitTick us q s).x.status := by
  unfold waitTick
  split <;> exact .refl _

/-- An event of the step in progress (R31, R40). -/
theorem keepsSticky_seqTick : KeepsSticky s.x.status (seqTick s).x.status := by
  have htxn : KeepsSticky s.x.status (txnStep s).x.status := by
    unfold txnStep
    split
    · exact keepsSticky_txnTick s _
    · exact .refl _
  unfold seqTick
  split
  case h_1 | h_2 => exact .refl _
  case h_3 => exact htxn
  case h_4 =>
    split
    · exact .of_eq (congrArg RegFile.status (respondWrite_x ..))
    · exact .of_eq (congrArg RegFile.status (respondRead_x ..))
  case h_5 =>
    split
    · exact .of_eq (congrArg RegFile.status (getRun_x ..))
    · exact .refl _
  case h_6 =>
    split
    · exact keepsSticky_initFinish s _
    · exact htxn
  case h_7 =>
    split
    · exact keepsSticky_waitTick s _ _
    · exact keepsSticky_stepT3 s
    · exact htxn
  case h_8 =>
    split
    · exact keepsSticky_waitTick s _ _
    · exact htxn
  case h_9 => exact keepsSticky_measpFinish s _ _

theorem keepsSticky_start (i : Instr) : KeepsSticky s.x.status (start i s).x.status := by
  unfold start
  cases i with
  | init => exact keepsSticky_initStart s
  | meast =>
    simp only
    split
    · exact keepsSticky_meastStart s
    · exact .refl _
  | measp =>
    simp only
    split
    · exact keepsSticky_measpStart s
    · exact .refl _
  | get r =>
    simp only
    split
    · exact .refl _
    · split <;> exact .refl _
  | _ => exact .refl _

end

/-- Settles O50: commands by `keepsSticky_exec`; an event takes a command, refuses a word or does the next event of a step. -/
theorem stickyFieldsAreNeverCleared : Obligations.StickyFieldsAreNeverCleared := by
  refine ⟨fun i s t f ht hs hf => (keepsSticky_exec ht).get f hs hf, fun p s f hp hs hf => ?_⟩
  have h : KeepsSticky s.x.status (tick p s).x.status := by
    unfold tick
    rw [if_neg (by simp [hp])]
    split
    · split
      · exact .refl _
      · split
        · exact keepsSticky_start (lowerRsp s) _
        · exact .refl _
    · exact keepsSticky_seqTick s
  exact h.get f hs hf

end Sys2Proof.Machine
end

section
/-! PROOFS of the family other, the edges of one byte (`40_bus_transport.md` R127, `20_memory.md` R64). -/

namespace Sys2Proof.Machine

/-- A bit shifted in moves every bit up by one place (R127). -/
theorem getLsbD_shiftIn (o : Byte) (b : Bool) {m : Nat} (hm : 0 < m) (hm8 : m < 8) :
    ((o <<< 1) ||| (BitVec.ofBool b).setWidth 8 : Byte).getLsbD m = o.getLsbD (m - 1) := by
  have h0 : (BitVec.ofBool b).getLsbD m = false := BitVec.getLsbD_of_ge _ m hm
  have hm0 : m ≠ 0 := by omega
  simp [hm8, h0, hm0, BitVec.getLsbD_eq_getElem (show m - 1 < 8 by omega)]

/-- While fewer than eight bits have come in, the bits above them are those of the byte sent (R127). -/
theorem getLsbD_foldl_shiftIn (bits : List Bool) (o : Byte) {m : Nat} (hm : bits.length ≤ m) (hm8 : m < 8) :
    (bits.foldl (fun (sh : Byte) b => (sh <<< 1) ||| (BitVec.ofBool b).setWidth 8) o).getLsbD m = o.getLsbD (m - bits.length) := by
  induction bits generalizing o with
  | nil => rfl
  | cons b bits ih =>
    rw [List.length_cons] at hm
    rw [List.foldl_cons, ih _ (by omega), getLsbD_shiftIn o b (by omega) (by omega), List.length_cons, Nat.sub_sub]

/-- Settles O19: after `j` bits the top of the shift register is bit `7 - j` of the byte sent; after all eight the register is the byte
received (`Spi.byte_frame`). -/
theorem bytesGoMostSignificantBitFirst : Obligations.BytesGoMostSignificantBitFirst := by
  intro o i sp
  obtain ⟨hcs, hcnt, hrx⟩ := Spi.byte_frame o i sp
  refine ⟨fun j hj => ⟨?_, rfl⟩, hrx, hcnt, rfl, hcs⟩
  have hlen : ((bitsMsbFirst i).take j).length = j := by simp [bitsMsbFirst]; omega
  have hshift := Spi.shiftBits_shift ((bitsMsbFirst i).take j) (sp.load o)
  have htop := getLsbD_foldl_shiftIn ((bitsMsbFirst i).take j) o (m := 7) (by omega) (by decide)
  rw [hlen] at htop
  exact congrArg some ((congrArg (BitVec.getLsbD · 7) hshift).trans htop)

end Sys2Proof.Machine
end
